-- ==== Sys2Proof/Word.lean ====
section
/-! DEFINITION. The numeric types of the engine (spec/00_scope.md R7, R8, R9).

Arithmetic on `BitVec` wraps modulo the width and its comparisons are unsigned, which is what R7 and R8 ask of
bytes and addresses. -/

namespace Sys2Proof

/-- R7: an unsigned byte, arithmetic modulo 256. -/
abbrev Byte := BitVec 8

/-- R8: an address, arithmetic modulo 65536. -/
abbrev Addr := BitVec 16

/-- R80: a 16-bit instruction word. -/
abbrev Word := BitVec 16

/-- R9, R82: a register index 0 to 15; every index of an instruction is a 4-bit field. -/
abbrev RegIdx := BitVec 4

/-- R31: a key index 0 to 15. -/
abbrev KeyIdx := BitVec 4

end Sys2Proof
end

