-- ==== Sys2Proof/Syntax.lean ====
section
/-! DEFINITION. The instruction set: one constructor per row of spec/opcode_table.json, in the table's order
(spec/30_encoding.md R85, R96). The operand types are the widths of the fields of R82, so a register index is 0 to
15 by its type (R9, R95). -/

namespace Sys2Proof

inductive Instr where
  /-- 00E0 `CLS` -/
  | cls
  /-- 00EE `RET` -/
  | ret
  /-- 00Cn `SCD n` -/
  | scd (n : BitVec 4)
  /-- 00Dn `SCU n` -/
  | scu (n : BitVec 4)
  /-- 00FB `SCR` -/
  | scr
  /-- 00FC `SCL` -/
  | scl
  /-- 00FD `EXIT` -/
  | exit
  /-- 00FE `LOW` -/
  | low
  /-- 00FF `HIGH` -/
  | high
  /-- 0nnn `SYS nnn`, only when `SYS_IS_NOP` -/
  | sys (nnn : BitVec 12)
  /-- 1nnn `JP nnn` -/
  | jp (nnn : BitVec 12)
  /-- 2nnn `CALL nnn` -/
  | call (nnn : BitVec 12)
  /-- 3xkk `SE Vx, kk` -/
  | seK (x : RegIdx) (kk : Byte)
  /-- 4xkk `SNE Vx, kk` -/
  | sneK (x : RegIdx) (kk : Byte)
  /-- 5xy0 `SE Vx, Vy` -/
  | seR (x y : RegIdx)
  /-- 5xy2 `SAVE Vx-Vy` -/
  | save (x y : RegIdx)
  /-- 5xy3 `LOAD Vx-Vy` -/
  | load (x y : RegIdx)
  /-- 6xkk `LD Vx, kk` -/
  | ldK (x : RegIdx) (kk : Byte)
  /-- 7xkk `ADD Vx, kk` -/
  | addK (x : RegIdx) (kk : Byte)
  /-- 8xy0 `LD Vx, Vy` -/
  | ldR (x y : RegIdx)
  /-- 8xy1 `OR Vx, Vy` -/
  | or (x y : RegIdx)
  /-- 8xy2 `AND Vx, Vy` -/
  | and (x y : RegIdx)
  /-- 8xy3 `XOR Vx, Vy` -/
  | xor (x y : RegIdx)
  /-- 8xy4 `ADD Vx, Vy` -/
  | addR (x y : RegIdx)
  /-- 8xy5 `SUB Vx, Vy` -/
  | sub (x y : RegIdx)
  /-- 8xy6 `SHR Vx, Vy` -/
  | shr (x y : RegIdx)
  /-- 8xy7 `SUBN Vx, Vy` -/
  | subn (x y : RegIdx)
  /-- 8xyE `SHL Vx, Vy` -/
  | shl (x y : RegIdx)
  /-- 9xy0 `SNE Vx, Vy` -/
  | sneR (x y : RegIdx)
  /-- Annn `LD I, nnn` -/
  | ldI (nnn : BitVec 12)
  /-- Bnnn `JP V0, nnn` -/
  | jpV0 (nnn : BitVec 12)
  /-- Cxkk `RND Vx, kk` -/
  | rnd (x : RegIdx) (kk : Byte)
  /-- Dxyn `DRW Vx, Vy, n`, n not 0 -/
  | drw (x y : RegIdx) (n : BitVec 4)
  /-- Dxy0 `DRW Vx, Vy, 0`, the 16 x 16 sprite -/
  | drw16 (x y : RegIdx)
  /-- Ex9E `SKP Vx` -/
  | skp (x : RegIdx)
  /-- ExA1 `SKNP Vx` -/
  | sknp (x : RegIdx)
  /-- F000 NNNN `LD I, long NNNN` -/
  | ldILong (nnnn : Word)
  /-- Fn01 `PLANE n`, n the x field -/
  | plane (n : BitVec 4)
  /-- F002 `AUDIO` -/
  | audio
  /-- Fx07 `LD Vx, DT` -/
  | ldVxDt (x : RegIdx)
  /-- Fx0A `LDK Vx` -/
  | ldKey (x : RegIdx)
  /-- Fx15 `LD DT, Vx` -/
  | ldDt (x : RegIdx)
  /-- Fx18 `LD ST, Vx` -/
  | ldSt (x : RegIdx)
  /-- Fx1E `ADD I, Vx` -/
  | addI (x : RegIdx)
  /-- Fx29 `LD F, Vx` -/
  | ldF (x : RegIdx)
  /-- Fx30 `LD HF, Vx` -/
  | ldHf (x : RegIdx)
  /-- Fx33 `BCD Vx` -/
  | bcd (x : RegIdx)
  /-- Fx3A `PITCH Vx` -/
  | pitch (x : RegIdx)
  /-- Fx55 `LD [I], Vx` -/
  | ldMemV (x : RegIdx)
  /-- Fx65 `LD Vx, [I]` -/
  | ldVMem (x : RegIdx)
  /-- Fx75 `SRGF Vx` -/
  | srgf (x : RegIdx)
  /-- Fx85 `LRGF Vx` -/
  | lrgf (x : RegIdx)
  deriving DecidableEq, Repr

end Sys2Proof
end

