-- ==== Sys2Proof/WellFormed.lean ====
section
/-! DEFINITION. Which terms of `Instr` are instructions of the machine (spec/30_encoding.md R85, R87, R91).

Field widths are in the operand types; two conditions remain, those the decoder's case split makes. -/

namespace Sys2Proof

/-- R85, R87: the low 12 bits of the 0-group words that have an instruction of their own, so are no `SYS`. -/
def groupZeroFixed (nnn : BitVec 12) : Bool :=
  nnn.extractLsb' 4 8 = 0x0C#8 || nnn.extractLsb' 4 8 = 0x0D#8 || nnn = 0x0E0#12 || nnn = 0x0EE#12 ||
  nnn = 0x0FB#12 || nnn = 0x0FC#12 || nnn = 0x0FD#12 || nnn = 0x0FE#12 || nnn = 0x0FF#12

/-- R85, R91: `DRW Vx, Vy, n` has n not 0 (n = 0 is the 16 x 16 form), and `SYS nnn` is a 0-group word that no fixed
word matches. -/
def Instr.wellFormed : Instr → Bool
  | .sys nnn => !groupZeroFixed nnn
  | .drw _ _ n => n ≠ 0#4
  | .cls | .ret | .scd _ | .scu _ | .scr | .scl | .exit | .low | .high | .jp _ | .call _ | .seK _ _ | .sneK _ _
  | .seR _ _ | .save _ _ | .load _ _ | .ldK _ _ | .addK _ _ | .ldR _ _ | .or _ _ | .and _ _ | .xor _ _ | .addR _ _
  | .sub _ _ | .shr _ _ | .subn _ _ | .shl _ _ | .sneR _ _ | .ldI _ | .jpV0 _ | .rnd _ _ | .drw16 _ _ | .skp _
  | .sknp _ | .ldILong _ | .plane _ | .audio | .ldVxDt _ | .ldKey _ | .ldDt _ | .ldSt _ | .addI _ | .ldF _ | .ldHf _
  | .bcd _ | .pitch _ | .ldMemV _ | .ldVMem _ | .srgf _ | .lrgf _ => true

end Sys2Proof
end

