-- ==== Sys2Proof/Decode.lean ====
section
/-! DEFINITION. The decoder, total on every 16-bit word and on every byte string, and the encoder, written from the
same table (spec/30_encoding.md R80 to R96, spec/opcode_table.json). -/

namespace Sys2Proof

/-! ### Fields (R82) -/

/-- R82 `t` = op[15:12]. -/
def fieldT (op : Word) : BitVec 4 := op.extractLsb' 12 4
/-- R82 `x` = op[11:8]. -/
def fieldX (op : Word) : RegIdx := op.extractLsb' 8 4
/-- R82 `y` = op[7:4]. -/
def fieldY (op : Word) : RegIdx := op.extractLsb' 4 4
/-- R82 `n` = op[3:0]. -/
def fieldN (op : Word) : BitVec 4 := op.extractLsb' 0 4
/-- R82 `kk` = op[7:0]. -/
def fieldKK (op : Word) : Byte := op.extractLsb' 0 8
/-- R82 `nnn` = op[11:0]. -/
def fieldNNN (op : Word) : BitVec 12 := op.extractLsb' 0 12

/-! ### One word (R85) -/

/-- What the first word of an instruction says (R85, R92): a whole instruction, the first word of `LD I, long` whose
second word the engine reads, or no instruction. -/
inductive FirstWord where
  | instr (i : Instr)
  | ldILong
  | fail
  deriving DecidableEq, Repr

/-- R85, R87: the 0 group, by its low 12 bits. -/
def decodeGroup0 (sysIsNop : Bool) (nnn : BitVec 12) : FirstWord :=
  if nnn = 0x0E0#12 then .instr .cls
  else if nnn = 0x0EE#12 then .instr .ret
  else if nnn.extractLsb' 4 8 = 0x0C#8 then .instr (.scd (nnn.extractLsb' 0 4))
  else if nnn.extractLsb' 4 8 = 0x0D#8 then .instr (.scu (nnn.extractLsb' 0 4))
  else if nnn = 0x0FB#12 then .instr .scr
  else if nnn = 0x0FC#12 then .instr .scl
  else if nnn = 0x0FD#12 then .instr .exit
  else if nnn = 0x0FE#12 then .instr .low
  else if nnn = 0x0FF#12 then .instr .high
  else if sysIsNop then .instr (.sys nnn)
  else .fail

/-- R85, R88: the 5 group. -/
def decodeGroup5 (x y : RegIdx) (n : BitVec 4) : FirstWord :=
  match n.toNat with
  | 0x0 => .instr (.seR x y)
  | 0x2 => .instr (.save x y)
  | 0x3 => .instr (.load x y)
  | _ => .fail

/-- R85, R88: the 8 group. -/
def decodeGroup8 (x y : RegIdx) (n : BitVec 4) : FirstWord :=
  match n.toNat with
  | 0x0 => .instr (.ldR x y)
  | 0x1 => .instr (.or x y)
  | 0x2 => .instr (.and x y)
  | 0x3 => .instr (.xor x y)
  | 0x4 => .instr (.addR x y)
  | 0x5 => .instr (.sub x y)
  | 0x6 => .instr (.shr x y)
  | 0x7 => .instr (.subn x y)
  | 0xE => .instr (.shl x y)
  | _ => .fail

/-- R85, R89: the E group. -/
def decodeGroupE (x : RegIdx) (kk : Byte) : FirstWord :=
  match kk.toNat with
  | 0x9E => .instr (.skp x)
  | 0xA1 => .instr (.sknp x)
  | _ => .fail

/-- R85, R89: the F group; F000 and F002 match only exactly (D5). -/
def decodeGroupF (x : RegIdx) (kk : Byte) : FirstWord :=
  match kk.toNat with
  | 0x00 => if x = 0#4 then .ldILong else .fail
  | 0x01 => .instr (.plane x)
  | 0x02 => if x = 0#4 then .instr .audio else .fail
  | 0x07 => .instr (.ldVxDt x)
  | 0x0A => .instr (.ldKey x)
  | 0x15 => .instr (.ldDt x)
  | 0x18 => .instr (.ldSt x)
  | 0x1E => .instr (.addI x)
  | 0x29 => .instr (.ldF x)
  | 0x30 => .instr (.ldHf x)
  | 0x33 => .instr (.bcd x)
  | 0x3A => .instr (.pitch x)
  | 0x55 => .instr (.ldMemV x)
  | 0x65 => .instr (.ldVMem x)
  | 0x75 => .instr (.srgf x)
  | 0x85 => .instr (.lrgf x)
  | _ => .fail

/-- R85, R95: the decode function, total, pure, reading only the word and `SYS_IS_NOP`. -/
def decodeWord (sysIsNop : Bool) (op : Word) : FirstWord :=
  match (fieldT op).toNat with
  | 0x0 => decodeGroup0 sysIsNop (fieldNNN op)
  | 0x1 => .instr (.jp (fieldNNN op))
  | 0x2 => .instr (.call (fieldNNN op))
  | 0x3 => .instr (.seK (fieldX op) (fieldKK op))
  | 0x4 => .instr (.sneK (fieldX op) (fieldKK op))
  | 0x5 => decodeGroup5 (fieldX op) (fieldY op) (fieldN op)
  | 0x6 => .instr (.ldK (fieldX op) (fieldKK op))
  | 0x7 => .instr (.addK (fieldX op) (fieldKK op))
  | 0x8 => decodeGroup8 (fieldX op) (fieldY op) (fieldN op)
  | 0x9 => if fieldN op = 0#4 then .instr (.sneR (fieldX op) (fieldY op)) else .fail
  | 0xA => .instr (.ldI (fieldNNN op))
  | 0xB => .instr (.jpV0 (fieldNNN op))
  | 0xC => .instr (.rnd (fieldX op) (fieldKK op))
  | 0xD => if fieldN op = 0#4 then .instr (.drw16 (fieldX op) (fieldY op))
           else .instr (.drw (fieldX op) (fieldY op) (fieldN op))
  | 0xE => decodeGroupE (fieldX op) (fieldKK op)
  | _ => decodeGroupF (fieldX op) (fieldKK op)

/-! ### Bytes (R64, R65, R80, R92) -/

/-- R64, R65: a word is big-endian, the byte at the lower address is bits 15:8. -/
def wordOfBytes (hi lo : Byte) : Word := hi ++ lo

/-- R64, R65: the two bytes of a word in ascending address order. -/
def bytesOfWord (w : Word) : List Byte := [w.extractLsb' 8 8, w.extractLsb' 0 8]

/-- Why a byte string holds no instruction. -/
inductive DecodeError where
  /-- R90: the word decodes to `Fail`. -/
  | badOpCode (op : Word)
  /-- Fewer than two bytes. -/
  | wordMissing
  /-- R92: F000 without its second word. -/
  | secondWordMissing
  deriving DecidableEq, Repr

/-- R80, R85, R92: the decoder on bytes, total: an instruction and the bytes after it, or the reason there is none. -/
def decode (sysIsNop : Bool) : List Byte → Except DecodeError (Instr × List Byte)
  | hi :: lo :: rest =>
    match decodeWord sysIsNop (wordOfBytes hi lo) with
    | .instr i => .ok (i, rest)
    | .fail => .error (.badOpCode (wordOfBytes hi lo))
    | .ldILong =>
      match rest with
      | hi2 :: lo2 :: rest2 => .ok (.ldILong (wordOfBytes hi2 lo2), rest2)
      | _ => .error .secondWordMissing
  | _ => .error .wordMissing

/-! ### The encoder (R83, R96) -/

/-- R83 format `A`. -/
def wordA (t : BitVec 4) (nnn : BitVec 12) : Word := t ++ nnn
/-- R83 format `XK` (and `X`, whose low byte is a selector). -/
def wordXK (t : BitVec 4) (x : RegIdx) (kk : Byte) : Word := t ++ x ++ kk
/-- R83 formats `XY` and `XYN`. -/
def wordXYN (t : BitVec 4) (x y : RegIdx) (n : BitVec 4) : Word := t ++ x ++ y ++ n

/-- R96: the first word of an instruction. -/
def firstWord : Instr → Word
  | .cls => 0x00E0#16
  | .ret => 0x00EE#16
  | .scd n => wordXYN 0x0#4 0x0#4 0xC#4 n
  | .scu n => wordXYN 0x0#4 0x0#4 0xD#4 n
  | .scr => 0x00FB#16
  | .scl => 0x00FC#16
  | .exit => 0x00FD#16
  | .low => 0x00FE#16
  | .high => 0x00FF#16
  | .sys nnn => wordA 0x0#4 nnn
  | .jp nnn => wordA 0x1#4 nnn
  | .call nnn => wordA 0x2#4 nnn
  | .seK x kk => wordXK 0x3#4 x kk
  | .sneK x kk => wordXK 0x4#4 x kk
  | .seR x y => wordXYN 0x5#4 x y 0x0#4
  | .save x y => wordXYN 0x5#4 x y 0x2#4
  | .load x y => wordXYN 0x5#4 x y 0x3#4
  | .ldK x kk => wordXK 0x6#4 x kk
  | .addK x kk => wordXK 0x7#4 x kk
  | .ldR x y => wordXYN 0x8#4 x y 0x0#4
  | .or x y => wordXYN 0x8#4 x y 0x1#4
  | .and x y => wordXYN 0x8#4 x y 0x2#4
  | .xor x y => wordXYN 0x8#4 x y 0x3#4
  | .addR x y => wordXYN 0x8#4 x y 0x4#4
  | .sub x y => wordXYN 0x8#4 x y 0x5#4
  | .shr x y => wordXYN 0x8#4 x y 0x6#4
  | .subn x y => wordXYN 0x8#4 x y 0x7#4
  | .shl x y => wordXYN 0x8#4 x y 0xE#4
  | .sneR x y => wordXYN 0x9#4 x y 0x0#4
  | .ldI nnn => wordA 0xA#4 nnn
  | .jpV0 nnn => wordA 0xB#4 nnn
  | .rnd x kk => wordXK 0xC#4 x kk
  | .drw x y n => wordXYN 0xD#4 x y n
  | .drw16 x y => wordXYN 0xD#4 x y 0x0#4
  | .skp x => wordXK 0xE#4 x 0x9E#8
  | .sknp x => wordXK 0xE#4 x 0xA1#8
  | .ldILong _ => 0xF000#16
  | .plane n => wordXK 0xF#4 n 0x01#8
  | .audio => 0xF002#16
  | .ldVxDt x => wordXK 0xF#4 x 0x07#8
  | .ldKey x => wordXK 0xF#4 x 0x0A#8
  | .ldDt x => wordXK 0xF#4 x 0x15#8
  | .ldSt x => wordXK 0xF#4 x 0x18#8
  | .addI x => wordXK 0xF#4 x 0x1E#8
  | .ldF x => wordXK 0xF#4 x 0x29#8
  | .ldHf x => wordXK 0xF#4 x 0x30#8
  | .bcd x => wordXK 0xF#4 x 0x33#8
  | .pitch x => wordXK 0xF#4 x 0x3A#8
  | .ldMemV x => wordXK 0xF#4 x 0x55#8
  | .ldVMem x => wordXK 0xF#4 x 0x65#8
  | .srgf x => wordXK 0xF#4 x 0x75#8
  | .lrgf x => wordXK 0xF#4 x 0x85#8

/-- R80, R92: the words of an instruction; only `LD I, long` has a second. -/
def encodeWords (i : Instr) : List Word :=
  match i with
  | .ldILong nnnn => [firstWord i, nnnn]
  | _ => [firstWord i]

/-- R64, R80: the bytes of an instruction in ascending address order. -/
def encode (i : Instr) : List Byte := (encodeWords i).flatMap bytesOfWord

/-! ### The words of spec/opcode_table.json -/

/-- The bytes, as the engine's memory holds them, of an instruction whose bits are `w`, bit 0 the least significant
bit of the first word and bit 16 that of the second; every bit from `nbits` up is 0. Four bytes, the longest
instruction (R80). -/
def tableBytes (nbits w : Nat) : List Byte :=
  bytesOfWord (BitVec.ofNat 16 (w % 2 ^ nbits)) ++ bytesOfWord (BitVec.ofNat 16 (w % 2 ^ nbits / 65536))

/-- The instruction the decoder reads from table bits. The table has a row, `SYS nnn`, that decodes only under
`SYS_IS_NOP`; so the decoder is asked under `SYS_IS_NOP` = true, under which every other word decodes as without it
(R91; log 11). -/
def decodeTableWord (nbits w : Nat) : Option Instr :=
  match decode true (tableBytes nbits w) with
  | .ok (i, _) => some i
  | .error _ => none

end Sys2Proof
end

