-- ==== Sys2Proof/Config.lean ====
section
/-! DEFINITION. What is fixed for the engine or chosen by the host, and the free value (spec/00_scope.md R6,
spec/10_state.md R39 to R42, R47). -/

namespace Sys2Proof

namespace Config

/-- R6, R60 `MEM_SIZE`. -/
abbrev memSize : Nat := 4096

/-- R6, R26 `STACK_DEPTH`. -/
abbrev stackDepth : Nat := 16

/-- R6, R61 `FLAG_SIZE`. -/
abbrev flagSize : Nat := 16

/-- R6, R254 `LATCH_WINDOW`. -/
abbrev latchWindow : Nat := 2

/-- R6, R33 `PLANE_W`. -/
abbrev planeW : Nat := 128

/-- R6, R33 `PLANE_H`. -/
abbrev planeH : Nat := 64

/-- R6, R71 `PC_RESET`. -/
abbrev pcReset : Addr := 0x200#16

/-- R6, R72 `CART_BASE`. -/
abbrev cartBase : Addr := 0x200#16

/-- R6, R163 `FONT_BASE`. -/
abbrev fontBase : Addr := 0x050#16

/-- R6, R164 `BIG_FONT_BASE`. -/
abbrev bigFontBase : Addr := 0x0A0#16

/-- R6 `PITCH_RESET`. -/
abbrev pitchReset : Byte := 64#8

/-- R101 `IPS_BASE` after construction. -/
abbrev ipsBaseReset : Nat := 10

/-- R47, R151, D35, U7: the byte the `k`-th execution of RND draws. A FREE VALUE: it has no body, so nothing can be
proved of it and a claim holds whatever it is (log 5). -/
opaque randomByte : Nat → Byte

end Config

/-- R2, R39: the dialect selector. -/
inductive Dialect where
  | chip8
  | schipModern
  | schipLegacy
  | xochip
  deriving DecidableEq, Repr

/-- R40: the quirks record `Q`, exactly eight booleans. -/
structure Quirks where
  /-- 8xy6, 8xyE shift V[y] (true) or V[x] (false). -/
  shiftY : Bool
  /-- Fx1E sets VF on 12-bit overflow. -/
  addICarry : Bool
  /-- 8xy1, 8xy2, 8xy3 clear VF. -/
  vfReset : Bool
  /-- Fx55, Fx65 advance I by the transferred count. -/
  indexIncrement : Bool
  /-- Sprite pixels past an edge are dropped (true) or wrap (false). -/
  drawClipping : Bool
  /-- Bnnn uses V[x], x the upper nibble of nnn (true), or V0 (false). -/
  jumpVx : Bool
  /-- Lores scroll amounts are not doubled (true) or doubled (false); C3. -/
  legacyScrolling : Bool
  /-- Draws beyond the first of a batch defer to the next batch. -/
  displayWait : Bool
  deriving DecidableEq, Repr

/-- R40, R42: the names of the eight toggles, for a single override. -/
inductive QuirkName where
  | shiftY
  | addICarry
  | vfReset
  | indexIncrement
  | drawClipping
  | jumpVx
  | legacyScrolling
  | displayWait
  deriving DecidableEq, Repr

/-- R41, D32: the open parameter `PRESET(dialect)` of the three presets that have values; the XO-CHIP one has none
(R259). -/
structure Presets where
  chip8 : Quirks
  schipModern : Quirks
  schipLegacy : Quirks
  deriving DecidableEq, Repr

/-- R6, R48: the open parameters of the engine. Nothing, neither an instruction nor a host action, changes them; a
claim over every state holds for every value of them. -/
structure Params where
  /-- D13 `SMALL_FONT`: 16 glyphs of 5 bytes. -/
  smallFont : Vector Byte 80
  /-- D13 `BIG_FONT`: 16 glyphs of 10 bytes. -/
  bigFont : Vector Byte 160
  /-- D4, R91 `SYS_IS_NOP`. -/
  sysIsNop : Bool
  /-- D31, R101 `IPS_MULT(XOCHIP)`. -/
  ipsMultXochip : Nat
  /-- D32, R41 `PRESET`. -/
  presets : Presets
  deriving DecidableEq, Repr

end Sys2Proof
end

