-- ==== Sys2Proof/Machine/Params.lean ====
section
/-! DEFINITION. The values the open parameters have in `State.reset` (spec/92_eei_decisions.md D13, D31, D32;
spec/93_implementation_defined.md GK6, GK7). They are the spec's suggestions, not the source's; every claim over all
states holds for any other values (log 6, 8, 9, 10, 11). -/

namespace Sys2Proof.Machine

/-- GK6: the suggested `SMALL_FONT`, glyphs 0 to F, 5 bytes each. PRESUMED (log 6). -/
def suggestedSmallFont : Vector Byte 80 := #v[
  0xF0#8, 0x90#8, 0x90#8, 0x90#8, 0xF0#8,  0x20#8, 0x60#8, 0x20#8, 0x20#8, 0x70#8,
  0xF0#8, 0x10#8, 0xF0#8, 0x80#8, 0xF0#8,  0xF0#8, 0x10#8, 0xF0#8, 0x10#8, 0xF0#8,
  0x90#8, 0x90#8, 0xF0#8, 0x10#8, 0x10#8,  0xF0#8, 0x80#8, 0xF0#8, 0x10#8, 0xF0#8,
  0xF0#8, 0x80#8, 0xF0#8, 0x90#8, 0xF0#8,  0xF0#8, 0x10#8, 0x20#8, 0x40#8, 0x40#8,
  0xF0#8, 0x90#8, 0xF0#8, 0x90#8, 0xF0#8,  0xF0#8, 0x90#8, 0xF0#8, 0x10#8, 0xF0#8,
  0xF0#8, 0x90#8, 0xF0#8, 0x90#8, 0x90#8,  0xE0#8, 0x90#8, 0xE0#8, 0x90#8, 0xE0#8,
  0xF0#8, 0x80#8, 0x80#8, 0x80#8, 0xF0#8,  0xE0#8, 0x90#8, 0x90#8, 0x90#8, 0xE0#8,
  0xF0#8, 0x80#8, 0xF0#8, 0x80#8, 0xF0#8,  0xF0#8, 0x80#8, 0xF0#8, 0x80#8, 0x80#8]

/-- GK7: the suggested digits 0 to 9 of `BIG_FONT`, 10 bytes each. PRESUMED (log 6). -/
def suggestedBigDigits : Vector Byte 100 := #v[
  0x3C#8, 0x7E#8, 0xE7#8, 0xC3#8, 0xC3#8, 0xC3#8, 0xC3#8, 0xE7#8, 0x7E#8, 0x3C#8,
  0x18#8, 0x38#8, 0x58#8, 0x18#8, 0x18#8, 0x18#8, 0x18#8, 0x18#8, 0x18#8, 0x3C#8,
  0x3E#8, 0x7F#8, 0xC3#8, 0x06#8, 0x0C#8, 0x18#8, 0x30#8, 0x60#8, 0xFF#8, 0xFF#8,
  0x3C#8, 0x7E#8, 0xC3#8, 0x03#8, 0x0E#8, 0x0E#8, 0x03#8, 0xC3#8, 0x7E#8, 0x3C#8,
  0x06#8, 0x0E#8, 0x1E#8, 0x36#8, 0x66#8, 0xC6#8, 0xFF#8, 0xFF#8, 0x06#8, 0x06#8,
  0xFF#8, 0xFF#8, 0xC0#8, 0xC0#8, 0xFC#8, 0xFE#8, 0x03#8, 0xC3#8, 0x7E#8, 0x3C#8,
  0x3E#8, 0x7C#8, 0xC0#8, 0xC0#8, 0xFC#8, 0xFE#8, 0xC3#8, 0xC3#8, 0x7E#8, 0x3C#8,
  0xFF#8, 0xFF#8, 0x03#8, 0x06#8, 0x0C#8, 0x18#8, 0x30#8, 0x60#8, 0x60#8, 0x60#8,
  0x3C#8, 0x7E#8, 0xC3#8, 0xC3#8, 0x7E#8, 0x7E#8, 0xC3#8, 0xC3#8, 0x7E#8, 0x3C#8,
  0x3C#8, 0x7E#8, 0xC3#8, 0xC3#8, 0x7F#8, 0x3F#8, 0x03#8, 0x03#8, 0x3E#8, 0x7C#8]

/-- GK7: the suggested `BIG_FONT`; the spec suggests no bytes for glyphs A to F and allows zeros. -/
def suggestedBigFont : Vector Byte 160 := suggestedBigDigits ++ Vector.replicate 60 0#8

/-- D32: the suggested toggles of the CHIP8 preset. PRESUMED (log 8, 10). -/
def suggestedChip8 : Quirks where
  shiftY := true
  addICarry := false
  vfReset := true
  indexIncrement := true
  drawClipping := true
  jumpVx := false
  legacyScrolling := false
  displayWait := true

/-- D32: the suggested toggles of the SCHIP_MODERN preset. PRESUMED (log 10). -/
def suggestedSchipModern : Quirks where
  shiftY := false
  addICarry := false
  vfReset := false
  indexIncrement := false
  drawClipping := true
  jumpVx := true
  legacyScrolling := false
  displayWait := false

/-- D32: the suggested toggles of the SCHIP_LEGACY preset. PRESUMED (log 10). -/
def suggestedSchipLegacy : Quirks where
  shiftY := false
  addICarry := false
  vfReset := false
  indexIncrement := false
  drawClipping := true
  jumpVx := true
  legacyScrolling := true
  displayWait := true

/-- The open parameters of `State.reset`: the suggested fonts and presets, `SYS_IS_NOP` = false (D4) and
`IPS_MULT(XOCHIP)` = 50 (D31). -/
def suggestedParams : Params where
  smallFont := suggestedSmallFont
  bigFont := suggestedBigFont
  sysIsNop := false
  ipsMultXochip := 50
  presets := { chip8 := suggestedChip8, schipModern := suggestedSchipModern, schipLegacy := suggestedSchipLegacy }

/-- R49, R70: what an address of main memory that no entry lists reads as: the reset contents, the (suggested) fonts
at 0x050 and 0x0A0 and 0 elsewhere (log 7). -/
def resetByte (a : Nat) : Byte :=
  if a < 0x050 then 0#8
  else if a < 0x0A0 then suggestedSmallFont.toList.getD (a - 0x050) 0#8
  else if a < 0x140 then suggestedBigFont.toList.getD (a - 0x0A0) 0#8
  else 0#8

end Sys2Proof.Machine
end

