-- ==== Sys2Proof/Machine/State.lean ====
section
/-! DEFINITION. The state of the engine, all of it plain data (spec/10_state.md R20 to R49), and its reset value.
INVENTORY.md's "State" lists each field with its rule and its reset value. -/

namespace Sys2Proof.Machine

/-- R60: main memory as (address, byte) pairs in one canonical form (`Memory.wf`): addresses strictly rising, all
below 4096, no entry equal to `resetByte` of its address, which is what an unlisted address reads as (log 7). -/
abbrev Memory := List Host.Cell

/-- R33, R34: one bit-plane of 128 x 64 pixels: 64 rows, row `py` holding pixel (px, py) as its bit `px`
(log 21). -/
abbrev Plane := Vector (BitVec 128) 64

/-- R35: the resolution mode. -/
inductive Mode where
  | lores
  | hires
  deriving DecidableEq, Repr

/-- R32: the release latch's record: key `key` was released when the tick counter was `tick`. -/
structure Latch where
  key : KeyIdx
  tick : Nat
  deriving DecidableEq, Repr

/-- R222, D48: a playback frequency, 4000 * 2 ^ (steps / 48) Hz, held by its exact exponent (log 19). -/
structure Frequency where
  steps : Int
  deriving DecidableEq, Repr

/-- R265: the notifications of a batch. -/
inductive Event where
  /-- R107 -/
  | loopDetected
  /-- R105 -/
  | exited
  /-- R207 -/
  | enteredLores
  /-- R208 -/
  | enteredHires
  /-- R220, R221 -/
  | audioUpdated (frequency : Frequency) (pattern : Vector Byte 16)
  deriving DecidableEq, Repr

/-- R100, R247: what a call of `step()` returns. -/
inductive StepOutcome where
  | success
  | loop
  | badOpCode
  | exit
  | displayWait
  deriving DecidableEq, Repr

/-- R241: the fatal errors F1 to F8 with the info they record. `pc` is the address of the instruction's first word and
`opcode` its first word. DESIGN CHOICE: `opcode` is `none` where there is no such word, a failing fetch or a host action,
and a host action records the current PC as `pc` (log 15). -/
inductive FatalError where
  /-- F1: `MemWrite` past the end of memory. -/
  | memoryOverflow (addr : Addr) (n : Nat) (pc : Addr) (opcode : Option Word)
  /-- F2: `MemRead` past the end of memory. -/
  | memReadOutOfRange (addr : Addr) (n : Nat) (pc : Addr) (opcode : Option Word)
  /-- F3: `CALL` at depth 16. -/
  | stackFull (pc : Addr) (opcode : Word)
  /-- F4: `RET` at depth 0. -/
  | stackEmpty (pc : Addr) (opcode : Word)
  /-- F5: a register index above 15; nothing reaches it (R9). -/
  | invalidRegisterIndex (index : Nat)
  /-- F6: a key index above 15. -/
  | invalidKeyIndex (k : Nat) (pc : Addr)
  /-- F7: `PLANE n` with n > 3. -/
  | invalidPlaneMask (n : BitVec 4) (pc : Addr)
  /-- F8: the host applies the XO-CHIP preset. -/
  | unimplementedQuirkProfile (profile : Dialect)
  deriving DecidableEq, Repr

/-- R259, R261 to R266: the host's actions other than `step()`. -/
inductive HostAction where
  /-- R261, R270 `reset()` -/
  | reset
  /-- R262, R72 `load_cartridge(bytes)` -/
  | loadCartridge (bytes : List Byte)
  /-- R259, R263 `set_dialect/apply_quirk_profile(name)` -/
  | applyProfile (d : Dialect)
  /-- R39, R48: the dialect selector set without applying its profile (log 20) -/
  | selectDialect (d : Dialect)
  /-- R42, R263: one quirk overridden -/
  | overrideQuirk (q : QuirkName) (b : Bool)
  /-- R259, U3: `Q` passed directly (log 20) -/
  | passQuirks (q : Quirks)
  /-- R264 `set_instructions_per_step(n)` -/
  | setInstructionsPerStep (n : Nat)
  /-- R252, R254, D50 `step_timers()` -/
  | stepTimers
  /-- R253 `key_down(k, pressed)` -/
  | keyDown (k : Nat) (pressed : Bool)
  deriving DecidableEq, Repr

/-- R260, R267: what the host does next between two batches. -/
inductive HostCall where
  /-- R265: a call of `step()` -/
  | step
  /-- any other action -/
  | act (a : HostAction)
  deriving DecidableEq, Repr

structure State where
  /-- R20 V0..VF -/
  v : Vector Byte 16
  /-- R22 I -/
  i : Addr
  /-- R24 PC -/
  pc : Addr
  /-- R26 the return stack, newest entry first (log 17) -/
  stack : List Addr
  /-- R29 DT -/
  dt : Byte
  /-- R29 ST -/
  st : Byte
  /-- R31 down[0..15] -/
  down : Vector Bool 16
  /-- R32 ktick -/
  ktick : Nat
  /-- R32 latch -/
  latch : Option Latch
  /-- R33 plane[0] -/
  plane0 : Plane
  /-- R33 plane[1] -/
  plane1 : Plane
  /-- R35 mode -/
  mode : Mode
  /-- R36 pmask: bit 0 selects plane 0, bit 1 plane 1 -/
  pmask : BitVec 2
  /-- R37 pattern[0..15] -/
  pattern : Vector Byte 16
  /-- R37 pitch -/
  pitch : Byte
  /-- R60 main memory -/
  mem : Memory
  /-- R61 flag storage -/
  flags : Vector Byte 16
  /-- R43 executed -/
  executed : Nat
  /-- R44 draws_in_batch -/
  drawsInBatch : Nat
  /-- R45 the current batch's notifications, in the order emitted -/
  events : List Event
  /-- R46 fatal -/
  fatal : Option FatalError
  /-- R39 dialect -/
  dialect : Dialect
  /-- R40 Q -/
  quirks : Quirks
  /-- R101, R264 IPS_BASE -/
  ipsBase : Nat
  /-- R6, R48 the open parameters -/
  params : Params
  /-- the model's own: bytes drawn by RND so far (log 5) -/
  randDraws : Nat
  /-- the model's own: iterations left of the loop of R100; 0 when no batch is open (log 1) -/
  batchLeft : Nat
  /-- the model's own: what the last batch returned (log 1) -/
  outcome : Option StepOutcome
  /-- the model's own: what the host will do at the coming batch boundaries, oldest first; an empty list is a host
  that only calls `step()` (log 2) -/
  inputs : List HostCall
  deriving DecidableEq, Repr

/-- Why a step has no next state. -/
inductive Fault where
  /-- R100, R245: the host calls `step()` on an engine whose `fatal` is set; such an engine has no step. Raised by
  `step` alone, never by an instruction. Safe: the spec gives the machine no transition there. -/
  | sessionOver (e : FatalError)
  deriving DecidableEq, Repr

/-- Why an instruction has no meaning. -/
inductive Refusal where
  /-- An instruction of the opcode table not modelled yet, by its mnemonic. Raised only in `exec`'s own arms; no arm
  of this model raises it. Safe. -/
  | notModelled (mnemonic : String)
  deriving DecidableEq, Repr

/-- R49, R270: the engine after construction and `reset()`. Configuration, which `reset()` leaves as the host set it,
has the values of log 6 and 8 to 11; the model's own fields have those of log 1, 2 and 5. -/
def State.reset : State where
  v := Vector.replicate 16 0#8
  i := 0#16
  pc := Config.pcReset
  stack := []
  dt := 0#8
  st := 0#8
  down := Vector.replicate 16 false
  ktick := 0
  latch := none
  plane0 := Vector.replicate 64 0#128
  plane1 := Vector.replicate 64 0#128
  mode := .lores
  pmask := 1#2
  pattern := Vector.replicate 16 0#8
  pitch := Config.pitchReset
  mem := []
  flags := Vector.replicate 16 0#8
  executed := 0
  drawsInBatch := 0
  events := []
  fatal := none
  dialect := .chip8
  quirks := suggestedChip8
  ipsBase := Config.ipsBaseReset
  params := suggestedParams
  randDraws := 0
  batchLeft := 0
  outcome := none
  inputs := []

end Sys2Proof.Machine
end

