-- ==== Sys2Proof/Machine/Ops.lean ====
section
/-! DEFINITION. The named operations over registers, memory, flag storage and stack, the ends of an instruction
(completing, stopping the batch, raising a fatal error), and the fetch (spec/00_scope.md R12, R13; spec/10_state.md R27;
spec/20_memory.md R62 to R67; spec/40_execution_cycle.md R102 to R111; spec/60_exceptions.md R241 to R246). -/

namespace Sys2Proof.Machine

/-- What an instruction or a step answers. -/
abbrev Result := Host.Outcome State Fault Refusal

/-! ### General registers (R20, R21) -/

/-- R12 `V[x]`. -/
def State.getV (s : State) (x : RegIdx) : Byte := s.v[x.toNat]'x.isLt

/-- R12 `V[x] <- b`. -/
def State.setV (s : State) (x : RegIdx) (b : Byte) : State := { s with v := s.v.set x.toNat b x.isLt }

/-- R12, R21 `set_carry(b)`: VF <- 1 or 0. -/
def State.setCarry (s : State) (b : Bool) : State := s.setV 0xF#4 (if b then 1#8 else 0#8)

/-- The registers of `xs`, in that order. -/
def State.getRegs (s : State) (xs : List RegIdx) : List Byte := xs.map s.getV

/-- V[x_j] <- b_j for each register of `xs` and byte of `bs`, in order. -/
def State.setRegs (s : State) : List RegIdx → List Byte → State
  | x :: xs, b :: bs => (s.setV x b).setRegs xs bs
  | _, _ => s

/-- R9: a register index from a number; above 15 it is the fatal error F5. No instruction needs it: every index of an
instruction is a 4-bit field. -/
def registerIndex (n : Nat) : Except FatalError RegIdx :=
  if n ≤ 15 then .ok (BitVec.ofNat 4 n) else .error (.invalidRegisterIndex n)

/-! ### Index register and program counter (R22, R24, R13) -/

/-- R22 `set_i`. -/
def State.setI (s : State) (a : Addr) : State := { s with i := a }

/-- R24 `set_pc`. -/
def State.setPc (s : State) (a : Addr) : State := { s with pc := a }

/-- R13, R24 "advance": PC <- PC + 2 modulo 65536. -/
def State.advance (s : State) : State := s.setPc (s.pc + 2#16)

/-- R13, R103 "skip": PC + 2, or PC + 4 when the condition holds. -/
def State.skipIf (s : State) (b : Bool) : State := s.setPc (if b then s.pc + 4#16 else s.pc + 2#16)

/-! ### Main memory (R60 to R63) -/

/-- The byte at an address. -/
def memGet : Memory → Nat → Byte
  | [], a => resetByte a
  | c :: rest, a => if c.1 = a then c.2 else memGet rest a

/-- Stores one byte, keeping the canonical form: the entry goes to its place in the order, and is left out when it
equals what an unlisted address reads as. -/
def memSet : Memory → Nat → Byte → Memory
  | [], a, b => if b = resetByte a then [] else [(a, b)]
  | c :: rest, a, b =>
    if a < c.1 then (if b = resetByte a then c :: rest else (a, b) :: c :: rest)
    else if a = c.1 then (if b = resetByte a then rest else (a, b) :: rest)
    else c :: memSet rest a b

/-- Stores bytes at `a`, `a + 1`, ... in ascending order (R65). -/
def memSetAll : Memory → Nat → List Byte → Memory
  | m, _, [] => m
  | m, a, b :: bs => memSetAll (memSet m a b) (a + 1) bs

/-- The canonical form of a memory. -/
abbrev Memory.wf (m : Memory) : Prop :=
  m.Pairwise (fun c d => c.1 < d.1) ∧ ∀ c ∈ m, c.1 < Config.memSize ∧ c.2 ≠ resetByte c.1

/-- R62, R63: a span of `n` bytes at `addr` lies in memory; computed on unbounded integers. -/
def inMemory (addr : Addr) (n : Nat) : Bool := addr.toNat + n ≤ Config.memSize

/-- R63 `MemRead(addr, n)`: `none` where it raises `MemReadOutOfRange`; `MemRead(addr, 0)` never does (log 14). -/
def memRead (m : Memory) (addr : Addr) (n : Nat) : Option (List Byte) :=
  if n = 0 || inMemory addr n then some ((List.range n).map fun j => memGet m (addr.toNat + j)) else none

/-- R62 `MemWrite(addr, n, bytes)`: `none` where it raises `MemoryOverflow`, with no byte written. -/
def memWrite (m : Memory) (addr : Addr) (bs : List Byte) : Option Memory :=
  if inMemory addr bs.length then some (memSetAll m addr.toNat bs) else none

/-- R64 `FetchWord(addr)`: `none` where it raises `MemReadOutOfRange(addr, 2)`. -/
def fetchWord (m : Memory) (addr : Addr) : Option Word :=
  if inMemory addr 2 then some (wordOfBytes (memGet m addr.toNat) (memGet m (addr.toNat + 1))) else none

/-! ### Flag storage (R61, R67) -/

/-- Copies bytes over the first elements of flag storage, from element `j` on. -/
def flagSetAll (f : Vector Byte 16) : Nat → List Byte → Vector Byte 16
  | _, [] => f
  | j, b :: bs => flagSetAll (f.setIfInBounds j b) (j + 1) bs

/-- R67 `FlagWrite(n, bytes)`: `none` where it raises `MemoryOverflow(0, n)`; unreachable, since n is at most 16. -/
def flagWrite (f : Vector Byte 16) (bs : List Byte) : Option (Vector Byte 16) :=
  if bs.length ≤ Config.flagSize then some (flagSetAll f 0 bs) else none

/-- R67 `FlagRead(n)`: `none` where it raises `MemReadOutOfRange(0, n)`; unreachable likewise. -/
def flagRead (f : Vector Byte 16) (n : Nat) : Option (List Byte) :=
  if n ≤ Config.flagSize then some (f.toList.take n) else none

/-! ### Stack (R26, R27) -/

/-- R27 `Push(a)`: `none` where it raises `StackFull`. -/
def stackPush (st : List Addr) (a : Addr) : Option (List Addr) :=
  if st.length < Config.stackDepth then some (a :: st) else none

/-- R27 `Pop()`: the newest entry and the rest; `none` where it raises `StackEmpty`. -/
def stackPop : List Addr → Option (Addr × List Addr)
  | [] => none
  | a :: rest => some (a, rest)

/-! ### How an inner step ends (R102, R104, R109, R111) -/

/-- R12 `emit`: a notification appended to the batch's event list. -/
def State.emit (s : State) (e : Event) : State := { s with events := s.events ++ [e] }

/-- R100, R109: the instruction was executed: it counts in `executed` and is one iteration of the batch, which
returns `Success` after its last (log 1). -/
def State.retire (s : State) : State :=
  { s with
    executed := s.executed + 1
    batchLeft := s.batchLeft - 1
    outcome := if s.batchLeft ≤ 1 then some .success else s.outcome }

/-- R104 `stop(o)`: the batch ends and returns `o`; the instruction is not executed and nothing else changes. -/
def State.stop (s : State) (o : StepOutcome) : State := { s with batchLeft := 0, outcome := some o }

/-- R111, R244, R245 `raise`: the shared entry of every fatal error: `fatal` is set, the batch ends with no outcome,
nothing else changes (log 3). -/
def State.raise (s : State) (e : FatalError) : State :=
  { s with fatal := some e, batchLeft := 0, outcome := none }

/-- An executed instruction's next state, which `t` is but for the count (R109). -/
def done (t : State) : Result := .next t.retire

/-- An instruction `i` that reads `n` bytes at `addr`: F2 where the span leaves memory (R63, R241), else it completes
as `k` says of the bytes. -/
def withRead (i : Instr) (addr : Addr) (n : Nat) (s : State) (k : List Byte → State) : Result :=
  match memRead s.mem addr n with
  | none => .next (s.raise (.memReadOutOfRange addr n s.pc (some (firstWord i))))
  | some bs => done (k bs)

/-- An instruction `i` that stores bytes at `addr`: F1 where the span leaves memory (R62, R241), else it completes as
`k` says of the state with the bytes stored. -/
def withWrite (i : Instr) (addr : Addr) (bs : List Byte) (s : State) (k : State → State) : Result :=
  match memWrite s.mem addr bs with
  | none => .next (s.raise (.memoryOverflow addr bs.length s.pc (some (firstWord i))))
  | some m => done (k { s with mem := m })

/-! ### The fetch (R64, R92, R102, R246) -/

/-- What an inner step finds at PC: an instruction, a word that does not decode, or a fatal error of the fetch. -/
inductive Fetched where
  | instr (i : Instr)
  | bad
  | fatal (e : FatalError)
  deriving DecidableEq, Repr

/-- R92, R102: reads and decodes the word at PC, and the second word of `LD I, long`. Its advance of PC by 2 before
execution is part of `execLdILong`'s advance by 4 (R103); nothing can observe PC between the two (R113). -/
def fetchInstr (s : State) : Fetched :=
  match fetchWord s.mem s.pc with
  | none => .fatal (.memReadOutOfRange s.pc 2 s.pc none)
  | some op =>
    match decodeWord s.params.sysIsNop op with
    | .instr i => .instr i
    | .fail => .bad
    | .ldILong =>
      match fetchWord s.mem (s.pc + 2#16) with
      | none => .fatal (.memReadOutOfRange (s.pc + 2#16) 2 s.pc (some op))
      | some nnnn => .instr (.ldILong nnnn)

end Sys2Proof.Machine
end

