-- ==== Sys2Proof/Machine/Flags.lean ====
section
/-! DEFINITION. Every result-and-flag computation (spec/42_arithmetic_logic.md R146 to R150, spec/43_index_and_memory.md
R162): computed on unbounded naturals where the rule does, then narrowed. -/

namespace Sys2Proof.Machine

/-- R146: the sum modulo 256, and the carry, the unbounded sum being above 255. -/
def addFlag (a b : Byte) : Byte × Bool :=
  (BitVec.ofNat 8 (a.toNat + b.toNat), a.toNat + b.toNat > 255)

/-- R147, R149: `a - b` modulo 256, and the no-borrow flag `a >= b`. -/
def subFlag (a b : Byte) : Byte × Bool := (a - b, a.toNat ≥ b.toNat)

/-- R148: the right shift by one, and the bit shifted out. -/
def shrFlag (a : Byte) : Byte × Bool := (a >>> 1, a.getLsbD 0)

/-- R150: the left shift by one modulo 256, and the bit shifted out. -/
def shlFlag (a : Byte) : Byte × Bool := (a <<< 1, a.getLsbD 7)

/-- R162: `I + V[x]` modulo 65536, and the 12-bit overflow, the unbounded sum being above 0x0FFF. -/
def indexSum (i : Addr) (b : Byte) : Addr × Bool :=
  (BitVec.ofNat 16 (i.toNat + b.toNat), i.toNat + b.toNat > 0x0FFF)

/-- R21, D7: a result to V[x], then the flag to VF; with x = 15 the flag wins. -/
def State.setResult (s : State) (x : RegIdx) (r : Byte × Bool) : State := (s.setV x r.1).setCarry r.2

/-- R143 to R145: a bitwise result to V[x], then VF <- 0 when `Q.vf_reset`. -/
def State.setBitwise (s : State) (x : RegIdx) (r : Byte) : State :=
  if s.quirks.vfReset then (s.setV x r).setCarry false else s.setV x r

end Sys2Proof.Machine
end

