-- ==== Sys2Proof/Machine/Operands.lean ====
section
/-! DEFINITION. Every operand form (spec/30_encoding.md R84, spec/41_control_flow.md R123, spec/42_arithmetic_logic.md
R148, spec/43_index_and_memory.md R163 to R172). -/

namespace Sys2Proof.Machine

/-- R11, R84 `zext_16` of a 12-bit address immediate. -/
def addrOf (nnn : BitVec 12) : Addr := nnn.setWidth 16

/-- R10, D39: `zext_16` of a byte. -/
def zextByte (b : Byte) : Addr := b.setWidth 16

/-- R123: the offset register of `JP V0, nnn`: V0, or V[x], x the upper nibble of nnn, when `Q.jump_vx`. -/
def jumpRegister (q : Quirks) (nnn : BitVec 12) : RegIdx := if q.jumpVx then nnn.extractLsb' 8 4 else 0#4

/-- R123: the target of `JP V0, nnn`. -/
def offsetTarget (s : State) (nnn : BitVec 12) : Addr :=
  addrOf nnn + zextByte (s.getV (jumpRegister s.quirks nnn))

/-- R148, R150: the byte that SHR and SHL shift: V[y] when `Q.shift_y`, else V[x]. -/
def shiftSource (s : State) (x y : RegIdx) : Byte := if s.quirks.shiftY then s.getV y else s.getV x

/-- R168, R169: the registers from Vx to Vy, ascending when x <= y and descending otherwise. -/
def regRange (x y : RegIdx) : List RegIdx :=
  if x.toNat ≤ y.toNat then (List.range (y.toNat - x.toNat + 1)).map fun j => BitVec.ofNat 4 (x.toNat + j)
  else (List.range (x.toNat - y.toNat + 1)).map fun j => BitVec.ofNat 4 (x.toNat - j)

/-- R166, R167, R170, R171: the registers V0 to Vx. -/
def regsUpTo (x : RegIdx) : List RegIdx := regRange 0#4 x

/-- R166, R167: I advanced by the transferred count when `Q.index_increment`. -/
def State.bumpI (s : State) (n : Nat) : State :=
  if s.quirks.indexIncrement then s.setI (s.i + BitVec.ofNat 16 n) else s

/-- R163: the small-font glyph of the low nibble of a byte. -/
def smallGlyph (b : Byte) : Addr := Config.fontBase + 5#16 * zextByte (b &&& 0x0F#8)

/-- R164: the big-font glyph of the low nibble of a byte. -/
def bigGlyph (b : Byte) : Addr := Config.bigFontBase + 10#16 * zextByte (b &&& 0x0F#8)

/-- R165: the hundreds, tens and ones digits of a byte. -/
def bcdDigits (b : Byte) : List Byte :=
  [BitVec.ofNat 8 (b.toNat / 100), BitVec.ofNat 8 (b.toNat / 10 % 10), BitVec.ofNat 8 (b.toNat % 10)]

/-- R184, R185: the key a register names; F6 above 15. -/
def keyOf (b : Byte) : Option KeyIdx := if b.toNat ≤ 15 then some (b.setWidth 4) else none

/-- R31, R255 `is_down(k)`. -/
def State.isDown (s : State) (k : KeyIdx) : Bool := s.down[k.toNat]'k.isLt

end Sys2Proof.Machine
end

