-- ==== Sys2Proof/Machine/Arithmetic.lean ====
section
/-! DEFINITION. Arithmetic and logic (spec/42_arithmetic_logic.md R140 to R152). Every instruction here ends with
PC <- PC + 2 and raises nothing; all operands are read before any result is written. -/

namespace Sys2Proof.Machine

/-- R140 `LD Vx, kk`. -/
def execLdK (x : RegIdx) (kk : Byte) (s : State) : Result := done (s.setV x kk).advance

/-- R141 `ADD Vx, kk`: no flag (D9). -/
def execAddK (x : RegIdx) (kk : Byte) (s : State) : Result := done (s.setV x (s.getV x + kk)).advance

/-- R142 `LD Vx, Vy`. -/
def execLdR (x y : RegIdx) (s : State) : Result := done (s.setV x (s.getV y)).advance

/-- R143 `OR Vx, Vy`. -/
def execOr (x y : RegIdx) (s : State) : Result := done (s.setBitwise x (s.getV x ||| s.getV y)).advance

/-- R144 `AND Vx, Vy`. -/
def execAnd (x y : RegIdx) (s : State) : Result := done (s.setBitwise x (s.getV x &&& s.getV y)).advance

/-- R145 `XOR Vx, Vy`. -/
def execXor (x y : RegIdx) (s : State) : Result := done (s.setBitwise x (s.getV x ^^^ s.getV y)).advance

/-- R146 `ADD Vx, Vy`. -/
def execAddR (x y : RegIdx) (s : State) : Result := done (s.setResult x (addFlag (s.getV x) (s.getV y))).advance

/-- R147 `SUB Vx, Vy`: Vx minus Vy. -/
def execSub (x y : RegIdx) (s : State) : Result := done (s.setResult x (subFlag (s.getV x) (s.getV y))).advance

/-- R148 `SHR Vx, Vy`. -/
def execShr (x y : RegIdx) (s : State) : Result := done (s.setResult x (shrFlag (shiftSource s x y))).advance

/-- R149 `SUBN Vx, Vy`: Vy minus Vx. -/
def execSubn (x y : RegIdx) (s : State) : Result := done (s.setResult x (subFlag (s.getV y) (s.getV x))).advance

/-- R150 `SHL Vx, Vy`. -/
def execShl (x y : RegIdx) (s : State) : Result := done (s.setResult x (shlFlag (shiftSource s x y))).advance

/-- R151 `RND Vx, kk`: the drawn byte, a free value (R47, log 5), masked by kk; the draw counts as taken. -/
def execRnd (x : RegIdx) (kk : Byte) (s : State) : Result :=
  done ({ s with randDraws := s.randDraws + 1 }.setV x (Config.randomByte s.randDraws &&& kk)).advance

end Sys2Proof.Machine
end

