-- ==== Sys2Proof/Machine/Audio.lean ====
section
/-! DEFINITION. Audio pattern instructions (spec/46_audio.md R220 to R222). -/

namespace Sys2Proof.Machine

/-- R222: the playback frequency of a pitch, 4000 * 2 ^ ((pitch - 64) / 48) Hz, by its exact exponent in 48ths
(log 19). -/
def frequency (pitch : Byte) : Frequency := ⟨(pitch.toNat : Int) - 64⟩

/-- R220, R221: the notification of a changed pattern or pitch. -/
def State.emitAudio (s : State) : State := s.emit (.audioUpdated (frequency s.pitch) s.pattern)

/-- R220: the pattern buffer replaced by the bytes of a list of 16. -/
def patternOf (bs : List Byte) : Vector Byte 16 := Vector.ofFn fun j => bs.getD j.val 0#8

/-- R220 `AUDIO`; F2 when I + 16 > 4096. -/
def execAudio (s : State) : Result :=
  withRead .audio s.i 16 s fun bs => ({ s with pattern := patternOf bs }).emitAudio.advance

/-- R221 `PITCH Vx`. -/
def execPitch (x : RegIdx) (s : State) : Result := done ({ s with pitch := s.getV x }).emitAudio.advance

end Sys2Proof.Machine
end

