-- ==== Sys2Proof/Machine/Control.lean ====
section
/-! DEFINITION. Control flow (spec/41_control_flow.md R120 to R131; the exit and loop checks of
spec/40_execution_cycle.md R102, R105, R107). -/

namespace Sys2Proof.Machine

/-- R105, R128 `EXIT`: not executed; the batch stops with `Exit`, PC stays at the instruction. -/
def execExit (s : State) : Result := .next ((s.emit .exited).stop .exit)

/-- R129 `SYS nnn`: a no-op that advances PC. -/
def execSys (_nnn : BitVec 12) (s : State) : Result := done s.advance

/-- R107, R120 `JP nnn`: a jump to itself is not executed, the batch stops with `Loop`; any other sets PC. -/
def execJp (nnn : BitVec 12) (s : State) : Result :=
  if addrOf nnn = s.pc then .next ((s.emit .loopDetected).stop .loop) else done (s.setPc (addrOf nnn))

/-- R121 `CALL nnn`: pushes the address after the CALL (D6); F3 at depth 16. -/
def execCall (nnn : BitVec 12) (s : State) : Result :=
  match stackPush s.stack (s.pc + 2#16) with
  | none => .next (s.raise (.stackFull s.pc (firstWord (.call nnn))))
  | some st => done ({ s with stack := st }.setPc (addrOf nnn))

/-- R122 `RET`; F4 at depth 0. -/
def execRet (s : State) : Result :=
  match stackPop s.stack with
  | none => .next (s.raise (.stackEmpty s.pc (firstWord .ret)))
  | some (a, st) => done ({ s with stack := st }.setPc a)

/-- R123 `JP V0, nnn`; never loop-detected (D25). -/
def execJpV0 (nnn : BitVec 12) (s : State) : Result := done (s.setPc (offsetTarget s nnn))

/-- R124 `SE Vx, kk`. -/
def execSeK (x : RegIdx) (kk : Byte) (s : State) : Result := done (s.skipIf (s.getV x = kk))

/-- R125 `SNE Vx, kk`. -/
def execSneK (x : RegIdx) (kk : Byte) (s : State) : Result := done (s.skipIf (s.getV x ≠ kk))

/-- R126 `SE Vx, Vy`. -/
def execSeR (x y : RegIdx) (s : State) : Result := done (s.skipIf (s.getV x = s.getV y))

/-- R127 `SNE Vx, Vy`. -/
def execSneR (x y : RegIdx) (s : State) : Result := done (s.skipIf (s.getV x ≠ s.getV y))

end Sys2Proof.Machine
end

