-- ==== Sys2Proof/Machine/Display.lean ====
section
/-! DEFINITION. The display's primitives and instructions (spec/45_display.md R190 to R210; the display-wait check of
spec/40_execution_cycle.md R102, R108). -/

namespace Sys2Proof.Machine

/-! ### Planes (R33, R34) -/

/-- R33: pixel (px, py); false outside 128 x 64. -/
def Plane.pixel (p : Plane) (px py : Nat) : Bool := (p.toList.getD py 0#128).getLsbD px

/-- The plane whose row `py` is `f py`. -/
def Plane.ofRows (f : Nat → BitVec 128) : Plane := ⟨((List.range 64).map f).toArray, by simp⟩

/-- R192 `plane[px, py] <- plane[px, py] ^ 1`. -/
def Plane.flip (p : Plane) (px py : Nat) : Plane :=
  p.setIfInBounds py (p.toList.getD py 0#128 ^^^ BitVec.twoPow 128 px)

/-- R200, R210: the plane with every pixel 0. -/
def Plane.clear : Plane := Vector.replicate 64 0#128

/-! ### Drawing (R190 to R197) -/

/-- R35 `factor(mode)`. -/
def Mode.factor : Mode → Nat
  | .lores => 2
  | .hires => 1

/-- R192, R196: the (col, r) of every sprite bit that is 1, row by row; the most significant bit of a row is its
leftmost column (D40). -/
def spriteBits {w : Nat} (rows : List (BitVec w)) : List (Nat × Nat) :=
  rows.zipIdx.flatMap fun (row, r) => (List.range w).filterMap fun col => if row.getMsbD col then some (col, r) else none

/-- R194: clipping holds for a draw only if asked for and if the start position is inside W x H. -/
def clipping (clip : Bool) (w h x y : Nat) : Bool := clip && !(x ≥ w || y ≥ h)

/-- R192, R194: where the sprite bit (col, r) of a draw at (x, y) goes on a W x H screen: nowhere when it is clipped,
else wrapped modulo W and H. -/
def place (c : Bool) (w h x y : Nat) (bit : Nat × Nat) : Option (Nat × Nat) :=
  if c && (x + bit.1 ≥ w || y + bit.2 ≥ h) then none else some ((x + bit.1) % w, (y + bit.2) % h)

/-- R190, R192: the f x f block of physical pixels of a logical pixel. -/
def block (f : Nat) (l : Nat × Nat) : List (Nat × Nat) :=
  (List.range f).flatMap fun dy => (List.range f).map fun dx => (l.1 * f + dx, l.2 * f + dy)

/-- R192, R196: the physical pixels a sprite of w-bit rows touches, in the order of the rule's loops, with scale factor
f on a screen of 128 / f by 64 / f logical pixels. -/
def spritePixels {w : Nat} (f : Nat) (clip : Bool) (x y : Byte) (rows : List (BitVec w)) : List (Nat × Nat) :=
  let wd := Config.planeW / f
  let ht := Config.planeH / f
  ((spriteBits rows).filterMap
    (place (clipping clip wd ht x.toNat y.toNat) wd ht x.toNat y.toNat)).flatMap (block f)

/-- R192, R193, R196: the pixels toggled one after the other, and whether one of them was 1 when it was toggled. -/
def xorPixels (p : Plane) (pixels : List (Nat × Nat)) : Plane × Bool :=
  pixels.foldl (fun (acc : Plane × Bool) q => (acc.1.flip q.1 q.2, acc.2 || acc.1.pixel q.1 q.2)) (p, false)

/-- R196: the 16-bit rows of a super sprite, the first byte of a row its left half. -/
def superRows : List Byte → List (BitVec 16)
  | hi :: lo :: rest => (hi ++ lo) :: superRows rest
  | _ => []

/-- R191, R195, R197 to R199: a sprite drawn to the targeted planes. `pixelsOf` gives the touched pixels of one plane's
sprite bytes; with both planes targeted the first half of the bytes goes to plane 0, the second to plane 1, and the
collisions are ORed. -/
def drawPlanes (s : State) (pixelsOf : List Byte → List (Nat × Nat)) (bs : List Byte) : State × Bool :=
  match s.pmask.toNat with
  | 0 => (s, false)
  | 1 => let d := xorPixels s.plane0 (pixelsOf bs); ({ s with plane0 := d.1 }, d.2)
  | 2 => let d := xorPixels s.plane1 (pixelsOf bs); ({ s with plane1 := d.1 }, d.2)
  | _ =>
    let d0 := xorPixels s.plane0 (pixelsOf (bs.take (bs.length / 2)))
    let d1 := xorPixels s.plane1 (pixelsOf (bs.drop (bs.length / 2)))
    ({ s with plane0 := d0.1, plane1 := d1.1 }, d0.2 || d1.2)

/-- R68, R198, R199: how many bytes a draw reads when one plane's sprite has `n`: none, `n` or twice `n`. -/
def drawBytes (pmask : BitVec 2) (n : Nat) : Nat :=
  match pmask.toNat with
  | 0 => 0
  | 1 | 2 => n
  | _ => 2 * n

/-- R192: the touched pixels of a plain draw in the current mode at (V[x], V[y]). -/
def plainPixels (s : State) (x y : RegIdx) (bs : List Byte) : List (Nat × Nat) :=
  spritePixels s.mode.factor s.quirks.drawClipping (s.getV x) (s.getV y) bs

/-- R196: the touched pixels of a super draw, never scaled, at (V[x], V[y]). -/
def superPixels (s : State) (x y : RegIdx) (bs : List Byte) : List (Nat × Nat) :=
  spritePixels 1 s.quirks.drawClipping (s.getV x) (s.getV y) (superRows bs)

/-- R108: a draw that must wait for the next batch. -/
def State.drawMustWait (s : State) : Bool := s.quirks.displayWait && s.drawsInBatch ≥ 1

/-- R102, R108, R198, R199: a draw instruction `i` whose sprite has `n` bytes a plane: it stops the batch where it must
wait; else it reads its bytes at I (F2 past the end of memory, before any pixel changes), draws them, sets VF to the
collision, and counts as a draw of the batch. -/
def drawInstr (i : Instr) (n : Nat) (pixelsOf : List Byte → List (Nat × Nat)) (s : State) : Result :=
  if s.drawMustWait then .next (s.stop .displayWait)
  else withRead i s.i (drawBytes s.pmask n) s fun bs =>
    let d := drawPlanes s pixelsOf bs
    { (d.1.setCarry d.2).advance with drawsInBatch := s.drawsInBatch + 1 }

/-- R198 `DRW Vx, Vy, n`. -/
def execDrw (x y : RegIdx) (n : BitVec 4) (s : State) : Result :=
  drawInstr (.drw x y n) n.toNat (plainPixels s x y) s

/-- R199 `DRW Vx, Vy, 0`: 16 x 16, 32 bytes a plane, in physical coordinates in both modes. -/
def execDrw16 (x y : RegIdx) (s : State) : Result :=
  drawInstr (.drw16 x y) 32 (superPixels s x y) s

/-! ### Clearing and scrolling (R191, R200 to R206) -/

/-- R191 `targets(pmask)`: `f` applied to the targeted planes. -/
def State.onTargets (s : State) (f : Plane → Plane) : State :=
  { s with
    plane0 := if s.pmask.getLsbD 0 then f s.plane0 else s.plane0
    plane1 := if s.pmask.getLsbD 1 then f s.plane1 else s.plane1 }

/-- R200 `CLS`. -/
def execCls (s : State) : Result := done (s.onTargets fun _ => Plane.clear).advance

/-- R201 `amount(n)`: doubled in lores unless `Q.legacy_scrolling`. -/
def scrollAmount (s : State) (n : Nat) : Nat :=
  if s.mode = .lores && !s.quirks.legacyScrolling then n * 2 else n

/-- R202 `scroll_down`. -/
def Plane.scrollDown (a : Nat) (p : Plane) : Plane :=
  Plane.ofRows fun py => if a ≤ py then p.toList.getD (py - a) 0#128 else 0#128

/-- R202 `scroll_up`. -/
def Plane.scrollUp (a : Nat) (p : Plane) : Plane := Plane.ofRows fun py => p.toList.getD (py + a) 0#128

/-- R202 `scroll_right`: pixel px of a row moves to px + a. -/
def Plane.scrollRight (a : Nat) (p : Plane) : Plane := Plane.ofRows fun py => p.toList.getD py 0#128 <<< a

/-- R202 `scroll_left`: pixel px of a row moves to px - a. -/
def Plane.scrollLeft (a : Nat) (p : Plane) : Plane := Plane.ofRows fun py => p.toList.getD py 0#128 >>> a

/-- R203 `SCD n`. -/
def execScd (n : BitVec 4) (s : State) : Result :=
  done (s.onTargets (Plane.scrollDown (scrollAmount s n.toNat))).advance

/-- R204 `SCU n`. -/
def execScu (n : BitVec 4) (s : State) : Result :=
  done (s.onTargets (Plane.scrollUp (scrollAmount s n.toNat))).advance

/-- R205 `SCR`. -/
def execScr (s : State) : Result := done (s.onTargets (Plane.scrollRight (scrollAmount s 4))).advance

/-- R206 `SCL`. -/
def execScl (s : State) : Result := done (s.onTargets (Plane.scrollLeft (scrollAmount s 4))).advance

/-! ### Mode and plane selection (R207 to R209) -/

/-- R207 `LOW`. -/
def execLow (s : State) : Result := done (({ s with mode := .lores }).emit .enteredLores).advance

/-- R208 `HIGH`. -/
def execHigh (s : State) : Result := done (({ s with mode := .hires }).emit .enteredHires).advance

/-- R209 `PLANE n`; F7 when n > 3. -/
def execPlane (n : BitVec 4) (s : State) : Result :=
  if n.toNat > 3 then .next (s.raise (.invalidPlaneMask n s.pc))
  else done ({ s with pmask := n.setWidth 2 }).advance

end Sys2Proof.Machine
end

