-- ==== Sys2Proof/Machine/IndexMemory.lean ====
section
/-! DEFINITION. The index register, memory transfers and flag storage (spec/43_index_and_memory.md R160 to R172). -/

namespace Sys2Proof.Machine

/-- R160 `LD I, nnn`. -/
def execLdI (nnn : BitVec 12) (s : State) : Result := done (s.setI (addrOf nnn)).advance

/-- R161 `LD I, long NNNN`: PC advances by 4 in all, 2 for the second word (R102) and 2 here. -/
def execLdILong (nnnn : Word) (s : State) : Result := done (s.advance.setI nnnn).advance

/-- R162 `ADD I, Vx`: I is never masked; VF is set only when `Q.add_i_carry`. -/
def execAddI (x : RegIdx) (s : State) : Result :=
  let r := indexSum s.i (s.getV x)
  done (if s.quirks.addICarry then (s.setI r.1).setCarry r.2 else s.setI r.1).advance

/-- R163 `LD F, Vx`. -/
def execLdF (x : RegIdx) (s : State) : Result := done (s.setI (smallGlyph (s.getV x))).advance

/-- R164 `LD HF, Vx`. -/
def execLdHf (x : RegIdx) (s : State) : Result := done (s.setI (bigGlyph (s.getV x))).advance

/-- R165 `BCD Vx`; F1 when I + 3 > 4096. -/
def execBcd (x : RegIdx) (s : State) : Result :=
  withWrite (.bcd x) s.i (bcdDigits (s.getV x)) s fun t => t.advance

/-- R166 `LD [I], Vx`; F1 when I + x + 1 > 4096. -/
def execLdMemV (x : RegIdx) (s : State) : Result :=
  withWrite (.ldMemV x) s.i (s.getRegs (regsUpTo x)) s fun t => (t.bumpI (x.toNat + 1)).advance

/-- R167 `LD Vx, [I]`; F2 when I + x + 1 > 4096. -/
def execLdVMem (x : RegIdx) (s : State) : Result :=
  withRead (.ldVMem x) s.i (x.toNat + 1) s fun bs => ((s.setRegs (regsUpTo x) bs).bumpI (x.toNat + 1)).advance

/-- R168 `SAVE Vx-Vy`: I never changes; F1 when the span leaves memory. -/
def execSave (x y : RegIdx) (s : State) : Result :=
  withWrite (.save x y) s.i (s.getRegs (regRange x y)) s fun t => t.advance

/-- R169 `LOAD Vx-Vy`: I never changes; F2 when the span leaves memory. -/
def execLoad (x y : RegIdx) (s : State) : Result :=
  withRead (.load x y) s.i (regRange x y).length s fun bs => (s.setRegs (regRange x y) bs).advance

/-- R170 `SRGF Vx`; the check of R67 cannot fire. -/
def execSrgf (x : RegIdx) (s : State) : Result :=
  match flagWrite s.flags (s.getRegs (regsUpTo x)) with
  | none => .next (s.raise (.memoryOverflow 0#16 (x.toNat + 1) s.pc (some (firstWord (.srgf x)))))
  | some f => done { s with flags := f }.advance

/-- R171 `LRGF Vx`; the check of R67 cannot fire. -/
def execLrgf (x : RegIdx) (s : State) : Result :=
  match flagRead s.flags (x.toNat + 1) with
  | none => .next (s.raise (.memReadOutOfRange 0#16 (x.toNat + 1) s.pc (some (firstWord (.lrgf x)))))
  | some bs => done (s.setRegs (regsUpTo x) bs).advance

end Sys2Proof.Machine
end

