-- ==== Sys2Proof/Machine/TimersKeypad.lean ====
section
/-! DEFINITION. Timer and keypad instructions (spec/44_timers_and_keypad.md R180 to R185). None decrements a timer or
ages the latch. -/

namespace Sys2Proof.Machine

/-- R180 `LD Vx, DT`. -/
def execLdVxDt (x : RegIdx) (s : State) : Result := done (s.setV x s.dt).advance

/-- R181 `LD DT, Vx`. -/
def execLdDt (x : RegIdx) (s : State) : Result := done { s with dt := s.getV x }.advance

/-- R182 `LD ST, Vx`. -/
def execLdSt (x : RegIdx) (s : State) : Result := done { s with st := s.getV x }.advance

/-- R183 `LDK Vx`: consumes a latched release and advances, or leaves PC where it is; both count as executed
(R109, D47). -/
def execLdKey (x : RegIdx) (s : State) : Result :=
  match s.latch with
  | some l => done ({ s with latch := none }.setV x (l.key.setWidth 8)).advance
  | none => done s

/-- R184 `SKP Vx`; F6 when V[x] > 15. -/
def execSkp (x : RegIdx) (s : State) : Result :=
  match keyOf (s.getV x) with
  | none => .next (s.raise (.invalidKeyIndex (s.getV x).toNat s.pc))
  | some k => done (s.skipIf (s.isDown k))

/-- R185 `SKNP Vx`; F6 when V[x] > 15. -/
def execSknp (x : RegIdx) (s : State) : Result :=
  match keyOf (s.getV x) with
  | none => .next (s.raise (.invalidKeyIndex (s.getV x).toNat s.pc))
  | some k => done (s.skipIf (!s.isDown k))

end Sys2Proof.Machine
end

