-- ==== Sys2Proof/Machine/Dispatch.lean ====
section
/-! DEFINITION. The dispatcher: the part of an inner step after the decode (spec/40_execution_cycle.md R102): the
exit, loop and display-wait checks, the instruction's execution, and its count. -/

namespace Sys2Proof.Machine

def exec (i : Instr) (s : State) : Host.Outcome State Fault Refusal :=
  match i with
  | .cls => Sys2Proof.Machine.execCls s
  | .ret => Sys2Proof.Machine.execRet s
  | .scd n => Sys2Proof.Machine.execScd n s
  | .scu n => Sys2Proof.Machine.execScu n s
  | .scr => Sys2Proof.Machine.execScr s
  | .scl => Sys2Proof.Machine.execScl s
  | .exit => Sys2Proof.Machine.execExit s
  | .low => Sys2Proof.Machine.execLow s
  | .high => Sys2Proof.Machine.execHigh s
  | .sys nnn => Sys2Proof.Machine.execSys nnn s
  | .jp nnn => Sys2Proof.Machine.execJp nnn s
  | .call nnn => Sys2Proof.Machine.execCall nnn s
  | .seK x kk => Sys2Proof.Machine.execSeK x kk s
  | .sneK x kk => Sys2Proof.Machine.execSneK x kk s
  | .seR x y => Sys2Proof.Machine.execSeR x y s
  | .save x y => Sys2Proof.Machine.execSave x y s
  | .load x y => Sys2Proof.Machine.execLoad x y s
  | .ldK x kk => Sys2Proof.Machine.execLdK x kk s
  | .addK x kk => Sys2Proof.Machine.execAddK x kk s
  | .ldR x y => Sys2Proof.Machine.execLdR x y s
  | .or x y => Sys2Proof.Machine.execOr x y s
  | .and x y => Sys2Proof.Machine.execAnd x y s
  | .xor x y => Sys2Proof.Machine.execXor x y s
  | .addR x y => Sys2Proof.Machine.execAddR x y s
  | .sub x y => Sys2Proof.Machine.execSub x y s
  | .shr x y => Sys2Proof.Machine.execShr x y s
  | .subn x y => Sys2Proof.Machine.execSubn x y s
  | .shl x y => Sys2Proof.Machine.execShl x y s
  | .sneR x y => Sys2Proof.Machine.execSneR x y s
  | .ldI nnn => Sys2Proof.Machine.execLdI nnn s
  | .jpV0 nnn => Sys2Proof.Machine.execJpV0 nnn s
  | .rnd x kk => Sys2Proof.Machine.execRnd x kk s
  | .drw x y n => Sys2Proof.Machine.execDrw x y n s
  | .drw16 x y => Sys2Proof.Machine.execDrw16 x y s
  | .skp x => Sys2Proof.Machine.execSkp x s
  | .sknp x => Sys2Proof.Machine.execSknp x s
  | .ldILong nnnn => Sys2Proof.Machine.execLdILong nnnn s
  | .plane n => Sys2Proof.Machine.execPlane n s
  | .audio => Sys2Proof.Machine.execAudio s
  | .ldVxDt x => Sys2Proof.Machine.execLdVxDt x s
  | .ldKey x => Sys2Proof.Machine.execLdKey x s
  | .ldDt x => Sys2Proof.Machine.execLdDt x s
  | .ldSt x => Sys2Proof.Machine.execLdSt x s
  | .addI x => Sys2Proof.Machine.execAddI x s
  | .ldF x => Sys2Proof.Machine.execLdF x s
  | .ldHf x => Sys2Proof.Machine.execLdHf x s
  | .bcd x => Sys2Proof.Machine.execBcd x s
  | .pitch x => Sys2Proof.Machine.execPitch x s
  | .ldMemV x => Sys2Proof.Machine.execLdMemV x s
  | .ldVMem x => Sys2Proof.Machine.execLdVMem x s
  | .srgf x => Sys2Proof.Machine.execSrgf x s
  | .lrgf x => Sys2Proof.Machine.execLrgf x s

end Sys2Proof.Machine
end

