-- ==== Sys2Proof/Machine/HostActions.lean ====
section
/-! DEFINITION. The host's actions between two calls of `step()`, and what it may read (spec/60_exceptions.md R252 to
R267, spec/70_reset_and_hazards.md R270 to R273). -/

namespace Sys2Proof.Machine

/-- R70, R270: main memory re-zeroed, then the two fonts stored. The two stores cover every address whose unlisted
value is not 0, so the zeroing needs no entry of its own. -/
def fontMemory (p : Params) : Memory :=
  memSetAll (memSetAll [] Config.fontBase.toNat p.smallFont.toList) Config.bigFontBase.toNat p.bigFont.toList

/-- R261, R270: `reset()`. It leaves the dialect, `Q`, `IPS_BASE` and the parameters (R49), and, of the model's own
fields, the draws taken so far and the host's coming actions (log 26). -/
def hostReset (s : State) : State :=
  { s with
    v := Vector.replicate 16 0#8
    i := 0#16
    pc := Config.pcReset
    stack := []
    dt := 0#8
    st := 0#8
    down := Vector.replicate 16 false
    ktick := 0
    latch := none
    plane0 := Vector.replicate 64 0#128
    plane1 := Vector.replicate 64 0#128
    mode := .lores
    pmask := 1#2
    pattern := Vector.replicate 16 0#8
    pitch := Config.pitchReset
    mem := fontMemory s.params
    flags := Vector.replicate 16 0#8
    executed := 0
    drawsInBatch := 0
    events := []
    fatal := none
    batchLeft := 0
    outcome := none }

/-- R72, R262: `load_cartridge(bytes)`; F1 over 3584 bytes, with nothing written. DESIGN CHOICE: the error records the
current PC, as there is no instruction whose address it could be (R241; log 15). -/
def loadCartridge (bytes : List Byte) (s : State) : State :=
  match memWrite s.mem Config.cartBase bytes with
  | none => s.raise (.memoryOverflow Config.cartBase bytes.length s.pc none)
  | some m => { s with mem := m }

/-- R41, R42: `PRESET(dialect)`; the XO-CHIP preset has no value (R259). -/
def preset (p : Params) : Dialect → Option Quirks
  | .chip8 => some p.presets.chip8
  | .schipModern => some p.presets.schipModern
  | .schipLegacy => some p.presets.schipLegacy
  | .xochip => none

/-- R259, R263: a preset replaces every field of `Q` and sets the dialect; the XO-CHIP one raises F8. DESIGN CHOICE: the
call that raises F8 leaves the dialect and `Q` as they were; R41 and R259 do not say (log 27). -/
def applyProfile (d : Dialect) (s : State) : State :=
  match preset s.params d with
  | none => s.raise (.unimplementedQuirkProfile d)
  | some q => { s with dialect := d, quirks := q }

/-- R42: one field of `Q` replaced. -/
def overrideQuirk (q : Quirks) (name : QuirkName) (b : Bool) : Quirks :=
  match name with
  | .shiftY => { q with shiftY := b }
  | .addICarry => { q with addICarry := b }
  | .vfReset => { q with vfReset := b }
  | .indexIncrement => { q with indexIncrement := b }
  | .drawClipping => { q with drawClipping := b }
  | .jumpVx => { q with jumpVx := b }
  | .legacyScrolling => { q with legacyScrolling := b }
  | .displayWait => { q with displayWait := b }

/-- R252 `timers_step()`: each timer decremented, floor at 0. -/
def timersStep (s : State) : State :=
  { s with
    dt := if s.dt = 0#8 then s.dt else s.dt - 1#8
    st := if s.st = 0#8 then s.st else s.st - 1#8 }

/-- R254 `keypad_step()`: the tick counter advances; a release more than `LATCH_WINDOW` ticks old is dropped. -/
def keypadStep (s : State) : State :=
  { s with
    ktick := s.ktick + 1
    latch := s.latch.filter fun l => s.ktick + 1 - l.tick ≤ Config.latchWindow }

/-- R253 `key_down(k, pressed)`: F6 above 15; a release latches the key whether or not it was down (D29). DESIGN CHOICE:
the error records the current PC, as there is no instruction whose address it could be (R241; log 15). -/
def keyDown (k : Nat) (pressed : Bool) (s : State) : State :=
  if k > 15 then s.raise (.invalidKeyIndex k s.pc)
  else
    { s with
      down := s.down.setIfInBounds k pressed
      latch := if pressed then s.latch else some ⟨BitVec.ofNat 4 k, s.ktick⟩ }

/-- R261 to R264, R252, R253, D50: what an action does. -/
def hostAct (a : HostAction) (s : State) : State :=
  match a with
  | .reset => hostReset s
  | .loadCartridge bytes => loadCartridge bytes s
  | .applyProfile d => applyProfile d s
  | .selectDialect d => { s with dialect := d }
  | .overrideQuirk q b => { s with quirks := overrideQuirk s.quirks q b }
  | .passQuirks q => { s with quirks := q }
  | .setInstructionsPerStep n => { s with ipsBase := n }
  | .stepTimers => keypadStep (timersStep s)
  | .keyDown k pressed => keyDown k pressed s

/-! ### The read side (R266) -/

/-- R30, R223 `is_beeping()`: ST > 0 alone. -/
def State.isBeeping (s : State) : Bool := s.st.toNat > 0

/-- R34: the flat array of a plane, element `py * 128 + px`, as the host reads it (R211). -/
def Plane.flat (p : Plane) : List Bool := p.toList.flatMap fun row => (List.range 128).map row.getLsbD

end Sys2Proof.Machine
end

