-- ==== Sys2Proof/Machine/Batch.lean ====
section
/-! DEFINITION. The batch and the engine's step (spec/40_execution_cycle.md R100 to R114, spec/60_exceptions.md R245,
R260). One step of the model is one inner step of an open batch, or, between two batches, one action of the host
(log 1, 2). -/

namespace Sys2Proof.Machine

/-- R101 `IPS_MULT(dialect)`. -/
def ipsMult (p : Params) : Dialect → Nat
  | .chip8 => 1
  | .schipModern => 2
  | .schipLegacy => 2
  | .xochip => p.ipsMultXochip

/-- R101: N, the instructions per step. -/
def batchSize (s : State) : Nat := s.ipsBase * ipsMult s.params s.dialect

/-- R100, R112: the start of `step()`: no events, no draws, N iterations to go; with N = 0 it returns `Success` at
once (D46). -/
def openBatch (s : State) : State :=
  { s with
    events := []
    drawsInBatch := 0
    batchLeft := batchSize s
    outcome := if batchSize s = 0 then some .success else none }

/-- R102, R246 `inner_step()`: fetch and decode, then the instruction. -/
def innerStep (s : State) : Result :=
  match fetchInstr s with
  | .fatal e => .next (s.raise e)
  | .bad => .next (s.stop .badOpCode)
  | .instr i => exec i s

/-- R100: a call of `step()`, up to and with its first inner step. -/
def callStep (s : State) : Result :=
  match s.fatal with
  | some e => .fault (.sessionOver e)
  | none => if batchSize s = 0 then .next (openBatch s) else innerStep (openBatch s)

/-- R260: between two batches the host acts. -/
def betweenBatches (s : State) : Result :=
  match s.inputs with
  | [] => callStep s
  | .step :: rest => callStep { s with inputs := rest }
  | .act a :: rest => .next (hostAct a { s with inputs := rest })

/-- The engine's step: the open batch goes on, or the host acts. An open batch never has `fatal` set
(`State.Inv`); a state that no run reaches, with both, has no step (R245). -/
def engineStep (s : State) : Result :=
  if s.batchLeft = 0 then betweenBatches s
  else
    match s.fatal with
    | some e => .fault (.sessionOver e)
    | none => innerStep s

/-- R100: at most n iterations of the loop of `step()`, ending early when the batch has ended. -/
def runInner : Nat → State → Result
  | 0, s => .next s
  | n + 1, s =>
    match innerStep s with
    | .next t => if t.batchLeft = 0 then .next t else runInner n t
    | .fault e => .fault e
    | .refused r => .refused r

/-- R100: a whole call of `step()` as one transition, as the spec writes it; `engineStep` is the same batch one
iteration at a time. -/
def runBatch (s : State) : Result :=
  match s.fatal with
  | some e => .fault (.sessionOver e)
  | none => runInner (batchSize s) (openBatch s)

end Sys2Proof.Machine
end

