-- ==== Sys2Proof/Machine/Step.lean ====
section
/-! DEFINITION. The machine's step, and a state with a given instruction where the step fetches next. -/

namespace Sys2Proof.Machine

/-- One step (spec/40_execution_cycle.md R100, R102; log 1, 2). -/
def step (s : State) : Host.Outcome State Fault Refusal := engineStep s

/-- `s` with the instruction whose table bits are `w` at the address the next step fetches from (log 18): its four
bytes are stored at PC, or at 0x200 with PC there when memory ends before them; a batch is open, so that the step is an
inner step; no fatal error is set; `SYS_IS_NOP` is set when the word is an instruction only then (R91, log 11). -/
def State.withFetchWord (s : State) (nbits w : Nat) : State :=
  let bs := tableBytes nbits w
  let op := BitVec.ofNat 16 (w % 2 ^ nbits)
  let base := if inMemory s.pc 4 then s.pc else Config.pcReset
  let t := if s.batchLeft = 0 then { openBatch s with batchLeft := max 1 (batchSize s), outcome := none } else s
  { t with
    pc := base
    mem := memSetAll s.mem base.toNat bs
    fatal := none
    params := { s.params with
      sysIsNop := s.params.sysIsNop || (decodeWord false op = .fail && decodeWord true op ≠ .fail) } }

end Sys2Proof.Machine
end

