-- ==== Sys2Proof/Safety.lean ====
section
/-! DEFINITION. The terms claims use: the invariant of the machine, and what a sprite touches, said without reference
to the loops that draw it. -/

namespace Sys2Proof.Machine

/-- What holds of the engine at reset and after every step. -/
structure State.Inv (s : State) : Prop where
  /-- R60: main memory is in canonical form: no address at or above 4096, no address listed twice. -/
  memory : s.mem.wf
  /-- R26: at most 16 return addresses. -/
  stack : s.stack.length ≤ Config.stackDepth
  /-- R254: a latched release is at most `LATCH_WINDOW` ticks old. -/
  latch : ∀ l ∈ s.latch, l.tick ≤ s.ktick ∧ s.ktick - l.tick ≤ Config.latchWindow
  /-- R104, R245: while a batch is open no fatal error is set and nothing has been returned. -/
  openBatch : 0 < s.batchLeft → s.fatal = none ∧ s.outcome = none
  /-- R100: a batch has at most N iterations left. -/
  batchSize : s.batchLeft ≤ Machine.batchSize s
  /-- R108: under `Q.display_wait` a batch executes at most one draw. -/
  displayWait : s.quirks.displayWait = true → 0 < s.batchLeft → s.drawsInBatch ≤ 1

/-- R102, R109: `t` is `u` counted as one executed instruction and one iteration of the batch, and nothing else: in a
statement `u` is the state before the instruction with the fields the instruction writes replaced, so that every field
not named there is unchanged. -/
def Counted (u t : State) : Prop :=
  t = { u with
    executed := u.executed + 1
    batchLeft := u.batchLeft - 1
    outcome := if u.batchLeft ≤ 1 then some .success else u.outcome }

/-- R104: `s` with the batch ended and `o` returned, and nothing else changed. -/
def Stopped (s : State) (o : StepOutcome) : State := { s with batchLeft := 0, outcome := some o }

/-- R241, R244, R245: `s` with the fatal error `e` set and the batch ended without an outcome, and nothing else
changed. -/
def Failed (s : State) (e : FatalError) : State := { s with fatal := some e, batchLeft := 0, outcome := none }

/-- R40: the value of a toggle, by its name. -/
def quirkValue (q : Quirks) : QuirkName → Bool
  | .shiftY => q.shiftY
  | .addICarry => q.addICarry
  | .vfReset => q.vfReset
  | .indexIncrement => q.indexIncrement
  | .drawClipping => q.drawClipping
  | .jumpVx => q.jumpVx
  | .legacyScrolling => q.legacyScrolling
  | .displayWait => q.displayWait

/-- R260: the engine is between two batches and the host acts next: it calls `step()` (`call` = none) or takes the
action `call`, and `rest` is what it does afterwards. -/
def HostActsNext (s : State) (call : Option HostAction) (rest : List HostCall) : Prop :=
  s.batchLeft = 0 ∧
    match call with
    | some a => s.inputs = .act a :: rest
    | none => s.inputs = .step :: rest ∨ (s.inputs = [] ∧ rest = [])

/-- R101: N, the instructions per `step()`. -/
def batchLimit (s : State) : Nat :=
  s.ipsBase *
    match s.dialect with
    | .chip8 => 1
    | .schipModern => 2
    | .schipLegacy => 2
    | .xochip => s.params.ipsMultXochip

/-- R201: the physical pixels a scroll by n moves. -/
def scrollBy (s : State) (n : Nat) : Nat := if s.mode = .lores ∧ s.quirks.legacyScrolling = false then n * 2 else n

/-- R190 to R194, R196: a sprite of `rows` rows of `w` bits, `bit r col` the bit of row r, column col counted from the
left, drawn at (x, y) with scale factor f, touches the physical pixel (px, py): some 1 bit of it lands, after the wrap
and unless it is clipped, on the logical pixel whose block holds (px, py). -/
def Touches (f w rows : Nat) (clip : Bool) (x y : Nat) (bit : Nat → Nat → Bool) (px py : Nat) : Prop :=
  ∃ r col, r < rows ∧ col < w ∧ bit r col = true ∧
    ¬(clip = true ∧ x < 128 / f ∧ y < 64 / f ∧ (128 / f ≤ x + col ∨ 64 / f ≤ y + r)) ∧
    px / f = (x + col) % (128 / f) ∧ py / f = (y + r) % (64 / f)

/-- R192, D40: bit col, from the left, of row r of an 8-pixel-wide sprite whose row r is the byte at `a + r`. -/
def plainBit (m : Memory) (a r col : Nat) : Bool := (memGet m (a + r)).getLsbD (7 - col)

/-- R196, D40: bit col, from the left, of row r of a 16-pixel-wide sprite whose row r is the two bytes at `a + 2 r`, the
first its left half. -/
def superBit (m : Memory) (a r col : Nat) : Bool :=
  if col < 8 then (memGet m (a + 2 * r)).getLsbD (7 - col) else (memGet m (a + 2 * r + 1)).getLsbD (15 - col)

end Sys2Proof.Machine
end

