-- ==== Sys2Proof/Certificates/Slice0/Obligations.lean ====
section
/-! DEFINITION. The statements for the provers, each about the machine and none about a program. `Counted`, `Stopped`,
`Failed` (Sys2Proof/Safety.lean) carry the frame: every field of State not named in them is unchanged; `batchLeft` and
`outcome`, which they name, are the model's own fields (log 1), and a fatal error as a next state is log 3. A docstring that
names a decision D<n> of spec/92_eei_decisions.md says which clause is the spec's own choice, not its source's. -/

open Sys2Proof Sys2Proof.Machine

/-! ### Encoding -/

/-- R98: the four words the source fixes. -/
def Obligations.DecodesTheSourceWords : Prop :=
  ∀ b : Bool, decodeWord b 0x00E0#16 = .instr .cls ∧ decodeWord b 0x1ABC#16 = .instr (.jp 0xABC#12) ∧
    decodeWord b 0x6A3F#16 = .instr (.ldK 0xA#4 0x3F#8) ∧ decodeWord b 0xD125#16 = .instr (.drw 1#4 2#4 5#4)

/-- R80, R85, R92, R96: the bytes of every well-formed instruction decode to it, with every operand at every value, and
leave the bytes after it; `SYS` needs `SYS_IS_NOP` (D4). -/
def Obligations.DecodeEncodeRoundTrip : Prop :=
  ∀ (i : Instr) (sysIsNop : Bool) (rest : List Byte), i.wellFormed = true → (∀ nnn, i = .sys nnn → sysIsNop = true) →
    decode sysIsNop (encode i ++ rest) = .ok (i, rest)

/-- R90, R91: the illegal words are exactly the listed ones, and `SYS_IS_NOP` (D4) turns those of the 0 group, and no
other word, into `SYS`. -/
def Obligations.IllegalWordsAreTheListedOnes : Prop :=
  ∀ w : Word,
    (decodeWord false w = .fail ↔
      (w.toNat < 0x1000 ∧ ¬(0x00C0 ≤ w.toNat ∧ w.toNat ≤ 0x00DF) ∧
        w.toNat ∉ [0x00E0, 0x00EE, 0x00FB, 0x00FC, 0x00FD, 0x00FE, 0x00FF]) ∨
      (w.toNat / 0x1000 = 0x5 ∧ w.toNat % 16 ∉ [0, 2, 3]) ∨
      (w.toNat / 0x1000 = 0x8 ∧ w.toNat % 16 ∉ [0, 1, 2, 3, 4, 5, 6, 7, 0xE]) ∨
      (w.toNat / 0x1000 = 0x9 ∧ w.toNat % 16 ≠ 0) ∨
      (w.toNat / 0x1000 = 0xE ∧ w.toNat % 256 ∉ [0x9E, 0xA1]) ∨
      (w.toNat / 0x1000 = 0xF ∧ w.toNat ≠ 0xF000 ∧ w.toNat ≠ 0xF002 ∧ w.toNat % 256 ∉
        [0x01, 0x07, 0x0A, 0x15, 0x18, 0x1E, 0x29, 0x30, 0x33, 0x3A, 0x55, 0x65, 0x75, 0x85])) ∧
    (decodeWord true w =
      if w.toNat < 0x1000 ∧ decodeWord false w = .fail then .instr (.sys (BitVec.ofNat 12 w.toNat))
      else decodeWord false w)

/-! ### Memory -/

/-- R62: a store that fits copies its bytes and leaves every other byte; one that does not writes nothing, and the
instruction that stores raises the fatal `MemoryOverflow`. -/
def Obligations.MemWriteStoresAllOrNothing : Prop :=
  ∀ (m : Memory) (addr : Addr) (bs : List Byte), m.wf →
    (4096 < addr.toNat + bs.length → memWrite m addr bs = none) ∧
    (addr.toNat + bs.length ≤ 4096 → ∃ m', memWrite m addr bs = some m' ∧ m'.wf ∧
      (∀ j, (h : j < bs.length) → memGet m' (addr.toNat + j) = bs[j]) ∧
      (∀ a, a < addr.toNat ∨ addr.toNat + bs.length ≤ a → memGet m' a = memGet m a)) ∧
    (∀ (i : Instr) (s : State) (k : State → State), 4096 < addr.toNat + bs.length →
      withWrite i addr bs s k = .next (Failed s (.memoryOverflow addr bs.length s.pc (some (firstWord i)))))

/-! ### Steps, batches, the host -/

/-- R64, R102: in an open batch, when the n bytes at PC decode to an instruction, the step is that instruction's
execution; `step` adds nothing around it. -/
def Obligations.StepRunsTheDecodedInstruction : Prop :=
  ∀ (s : State) (i : Instr) (n : Nat), s.fatal = none → 0 < s.batchLeft → s.pc.toNat + n ≤ 4096 →
    decode s.params.sysIsNop ((List.range n).map fun j => memGet s.mem (s.pc.toNat + j)) = .ok (i, []) →
    step s = exec i s

/-- R106: a word that does not decode stops the batch with `BadOpCode`, emits nothing, and PC stays at it. -/
def Obligations.IllegalWordStopsTheBatch : Prop :=
  ∀ s : State, s.fatal = none → 0 < s.batchLeft → s.pc.toNat + 2 ≤ 4096 →
    decodeWord s.params.sysIsNop (memGet s.mem s.pc.toNat ++ memGet s.mem (s.pc.toNat + 1)) = .fail →
    step s = .next (Stopped s .badOpCode)

/-- R63, R64, R244 (D14, D37): a fetch that leaves memory raises `MemReadOutOfRange` and changes nothing else. -/
def Obligations.FetchPastMemoryIsFatal : Prop :=
  ∀ s : State, s.fatal = none → 0 < s.batchLeft → 4096 < s.pc.toNat + 2 →
    step s = .next (Failed s (.memReadOutOfRange s.pc 2 s.pc none))

/-- R100, R101, R112: when the host calls `step()`, the events and the draw count are emptied and a batch of N
iterations opens; with N = 0 it returns `Success` with nothing executed (D24, D31, D46). -/
def Obligations.CallingStepOpensABatch : Prop :=
  ∀ (s : State) (rest : List HostCall), HostActsNext s none rest → s.fatal = none →
    (batchLimit s = 0 → step s = .next { s with
      inputs := rest, events := [], drawsInBatch := 0, batchLeft := 0, outcome := some .success }) ∧
    (0 < batchLimit s → step s = step { s with
      inputs := rest, events := [], drawsInBatch := 0, batchLeft := batchLimit s, outcome := none })

/-- R245 (D37): after a fatal error the engine has no step. -/
def Obligations.NoStepAfterAFatalError : Prop :=
  ∀ (s : State) (e : FatalError), s.fatal = some e → (0 < s.batchLeft ∨ ∃ rest, HostActsNext s none rest) →
    step s = .fault (.sessionOver e)

/-- R252: `step_timers()` decrements each timer, floor at 0; with it the keypad ticks (R254, D50). -/
def Obligations.TimersTickDownToZero : Prop :=
  ∀ (s : State) (rest : List HostCall), HostActsNext s (some .stepTimers) rest →
    ∃ t, step s = .next t ∧ t.dt.toNat = s.dt.toNat - 1 ∧ t.st.toNat = s.st.toNat - 1 ∧
      (∀ l, t.latch = some l ↔ s.latch = some l ∧ s.ktick + 1 - l.tick ≤ 2) ∧
      t = { s with inputs := rest, dt := t.dt, st := t.st, ktick := s.ktick + 1, latch := t.latch }

/-- R253 (D29): a key event sets that key and no other; a release latches it; a key above 15 is fatal (the PC it records
is log 15's). -/
def Obligations.KeyEventsSetKeysAndLatchReleases : Prop :=
  ∀ (s : State) (rest : List HostCall) (k : Nat) (pressed : Bool), HostActsNext s (some (.keyDown k pressed)) rest →
    (k ≤ 15 → ∃ t, step s = .next t ∧
      (∀ j, (h : j < 16) → t.down[j] = if j = k then pressed else s.down[j]) ∧
      t = { s with
        inputs := rest, down := t.down,
        latch := if pressed then s.latch else some ⟨BitVec.ofNat 4 k, s.ktick⟩ }) ∧
    (15 < k → step s = .next (Failed { s with inputs := rest } (.invalidKeyIndex k s.pc)))

/-- R254, R278: a release stays latched through two ticks after it and is gone from the third on (derived there from
R253 and R254; D29, D50). -/
def Obligations.ReleaseLastsTwoTicks : Prop :=
  ∀ (s : State) (k : Nat), k ≤ 15 →
    let released := hostAct (.keyDown k false) s
    let after1 := hostAct .stepTimers released
    let after2 := hostAct .stepTimers after1
    let after3 := hostAct .stepTimers after2
    released.latch = some ⟨BitVec.ofNat 4 k, s.ktick⟩ ∧ after1.latch = released.latch ∧
      after2.latch = released.latch ∧ after3.latch = none

/-- R261, R270, R273: `reset()` gives every component its reset value, stores the two fonts in re-zeroed memory, clears
`fatal`, and leaves the configuration (D23, D33, D34). The draws taken and the host's coming actions are the model's
own fields and stay (log 26). -/
def Obligations.HostResetRestoresResetValues : Prop :=
  ∀ (s : State) (rest : List HostCall), HostActsNext s (some .reset) rest →
    ∃ t, step s = .next t ∧ (∀ k, t.getV k = 0#8) ∧ (∀ j, (h : j < 16) → t.down[j] = false) ∧
      (∀ j, (h : j < 16) → t.flags[j] = 0#8) ∧ (∀ j, (h : j < 16) → t.pattern[j] = 0#8) ∧
      (∀ px py, t.plane0.pixel px py = false ∧ t.plane1.pixel px py = false) ∧
      (∀ a, memGet t.mem a =
        if h : 0x050 ≤ a ∧ a < 0x0A0 then s.params.smallFont[a - 0x050]
        else if h : 0x0A0 ≤ a ∧ a < 0x140 then s.params.bigFont[a - 0x0A0] else 0#8) ∧
      t.mem.wf ∧
      t = { s with
        v := t.v, i := 0#16, pc := 0x200#16, stack := [], dt := 0#8, st := 0#8, down := t.down, ktick := 0,
        latch := none, plane0 := t.plane0, plane1 := t.plane1, mode := .lores, pmask := 1#2, pattern := t.pattern,
        pitch := 64#8, mem := t.mem, flags := t.flags, executed := 0, drawsInBatch := 0, events := [], fatal := none,
        batchLeft := 0, outcome := none, inputs := rest }

/-- R72, R262: a cartridge of at most 3584 bytes is stored verbatim at 0x200 and changes no register; a longer one
raises `MemoryOverflow` and writes nothing (derived there from R62; the PC it records is log 15's). -/
def Obligations.CartridgeLoadsAt0x200 : Prop :=
  ∀ (s : State) (rest : List HostCall) (bytes : List Byte), HostActsNext s (some (.loadCartridge bytes)) rest →
    s.mem.wf →
    (bytes.length ≤ 3584 → ∃ t, step s = .next t ∧ (∀ j, (h : j < bytes.length) → memGet t.mem (0x200 + j) = bytes[j]) ∧
      (∀ a, a < 0x200 ∨ 0x200 + bytes.length ≤ a → memGet t.mem a = memGet s.mem a) ∧
      t = { s with inputs := rest, mem := t.mem }) ∧
    (3584 < bytes.length → step s =
      .next (Failed { s with inputs := rest } (.memoryOverflow 0x200#16 bytes.length s.pc none)))

/-- R42, R259, R263, R264: a preset replaces all of `Q` and sets the dialect, the XO-CHIP preset raises
`UnimplementedQuirkProfile` (D32) and leaves the dialect and `Q` as they were (log 27), an override sets one toggle,
`set_instructions_per_step` sets IPS_BASE (D31). -/
def Obligations.HostConfiguresTheEngine : Prop :=
  ∀ (s : State) (rest : List HostCall),
    (∀ d, HostActsNext s (some (.applyProfile d)) rest → step s = .next (match d with
      | .chip8 => { s with inputs := rest, dialect := d, quirks := s.params.presets.chip8 }
      | .schipModern => { s with inputs := rest, dialect := d, quirks := s.params.presets.schipModern }
      | .schipLegacy => { s with inputs := rest, dialect := d, quirks := s.params.presets.schipLegacy }
      | .xochip => Failed { s with inputs := rest } (.unimplementedQuirkProfile d))) ∧
    (∀ q b, HostActsNext s (some (.overrideQuirk q b)) rest → ∃ t, step s = .next t ∧
      (∀ p, quirkValue t.quirks p = if p = q then b else quirkValue s.quirks p) ∧
      t = { s with inputs := rest, quirks := t.quirks }) ∧
    (∀ n, HostActsNext s (some (.setInstructionsPerStep n)) rest →
      step s = .next { s with inputs := rest, ipsBase := n })

/-! ### Reset and invariants -/

/-- R49, R270, R271: the values the spec gives for reset (those of the mode, the mask, the pattern, the keypad's counter
and latch, flag storage and the counters are D23's and D33's). The fonts stand where R70 puts them, whatever they
are. -/
def Obligations.ResetStateHasTheResetValues : Prop :=
  let s := State.reset
  (∀ k, s.getV k = 0#8) ∧ s.i = 0#16 ∧ s.pc = 0x200#16 ∧ s.stack = [] ∧ s.dt = 0#8 ∧ s.st = 0#8 ∧
    s.down = Vector.replicate 16 false ∧ s.ktick = 0 ∧ s.latch = none ∧
    (∀ px py, s.plane0.pixel px py = false ∧ s.plane1.pixel px py = false) ∧ s.mode = .lores ∧ s.pmask = 1#2 ∧
    s.pattern = Vector.replicate 16 0#8 ∧ s.pitch = 64#8 ∧ s.flags = Vector.replicate 16 0#8 ∧ s.executed = 0 ∧
    s.drawsInBatch = 0 ∧ s.events = [] ∧ s.fatal = none ∧
    (∀ a, memGet s.mem a =
      if h : 0x050 ≤ a ∧ a < 0x0A0 then s.params.smallFont[a - 0x050]
      else if h : 0x0A0 ≤ a ∧ a < 0x140 then s.params.bigFont[a - 0x0A0] else 0#8)

/-- The invariant of the machine (`State.Inv`) holds at reset. -/
def Obligations.InvariantHoldsAtReset : Prop := State.reset.Inv

/-- Every step keeps the invariant: canonical memory, at most 16 return addresses, a latched release at most two ticks
old, no fatal error and no outcome in an open batch, at most N iterations left, and under `Q.display_wait` at most one
draw a batch. -/
def Obligations.EveryStepKeepsTheInvariant : Prop :=
  ∀ s t : State, s.Inv → step s = .next t → t.Inv

/-- R100: the spec's `step()`, a whole batch as one transition (`runBatch`), is what at most max(1, N) steps of the
machine do from the batch boundary (the step size is the model's choice, log 1). -/
def Obligations.BatchIsTheRunOfItsSteps : Prop :=
  ∀ (s : State) (rest : List HostCall), HostActsNext s none rest →
    ∃ k, 1 ≤ k ∧ k ≤ max 1 (batchLimit s) ∧ Host.Core.run Sys2Proof.core k s = runBatch { s with inputs := rest }

/-- R110: once a batch has stopped with `Exit`, `BadOpCode` or `Loop`, the next `step()` (N > 0) with no host action in
between stops with the same outcome, having changed nothing but the batch's own events and draw count (derived there
from R102 and R104). -/
def Obligations.StoppedEngineStopsAgain : Prop :=
  ∀ s t : State, 0 < s.batchLeft → s.outcome = none → step s = .next t → t.inputs = [] → 0 < batchLimit t →
    (t.outcome = some .exit ∨ t.outcome = some .badOpCode ∨ t.outcome = some .loop) →
    ∃ u, step t = .next u ∧ u = { t with events := u.events, drawsInBatch := 0 }

/-! ### All instructions -/

/-- R20 to R48, R68, R103, R109, R243, R250, R265: which instructions may write each part of the state the spec names:
only `CALL` and `RET` the stack, only `LOW` and `HIGH` the mode, only jumps, calls and returns PC other than by an advance,
and so on; none writes the configuration, the keys or the tick counter, and none but `LD DT, Vx` and `LD ST, Vx` a timer.
Draws and `ADD I, Vx` write no general register but VF (R21). Every instruction counts at most once (D26). `randDraws` and
`inputs` are the model's own fields (log 5, 2); its other two, `batchLeft` and `outcome`, are log 1's and have no clause. -/
def Obligations.EachPartHasItsOwnWriters : Prop :=
  ∀ (i : Instr) (s t : State), exec i s = .next t →
    (t.params = s.params ∧ t.dialect = s.dialect ∧ t.quirks = s.quirks ∧ t.ipsBase = s.ipsBase ∧ t.down = s.down ∧
      t.ktick = s.ktick ∧ t.inputs = s.inputs) ∧
    (match i with | .ldDt _ => True | _ => t.dt = s.dt) ∧
    (match i with | .ldSt _ => True | _ => t.st = s.st) ∧
    (match i with | .call _ | .ret => True | _ => t.stack = s.stack) ∧
    (match i with | .ldKey _ => True | _ => t.latch = s.latch) ∧
    (match i with | .low | .high => True | _ => t.mode = s.mode) ∧
    (match i with | .plane _ => True | _ => t.pmask = s.pmask) ∧
    (match i with | .audio => True | _ => t.pattern = s.pattern) ∧
    (match i with | .pitch _ => True | _ => t.pitch = s.pitch) ∧
    (match i with | .bcd _ | .ldMemV _ | .save _ _ => True | _ => t.mem = s.mem) ∧
    (match i with | .srgf _ => True | _ => t.flags = s.flags) ∧
    (match i with | .drw _ _ _ | .drw16 _ _ => True | _ => t.drawsInBatch = s.drawsInBatch) ∧
    (match i with
      | .drw _ _ _ | .drw16 _ _ | .cls | .scd _ | .scu _ | .scr | .scl => True
      | _ => t.plane0 = s.plane0 ∧ t.plane1 = s.plane1) ∧
    (match i with
      | .ldI _ | .ldILong _ | .addI _ | .ldF _ | .ldHf _ | .ldMemV _ | .ldVMem _ => True
      | _ => t.i = s.i) ∧
    (match i with | .rnd _ _ => True | _ => t.randDraws = s.randDraws) ∧
    (match i with
      | .ldK _ _ | .addK _ _ | .ldR _ _ | .or _ _ | .and _ _ | .xor _ _ | .addR _ _ | .sub _ _ | .shr _ _ | .subn _ _
      | .shl _ _ | .rnd _ _ | .ldVMem _ | .load _ _ | .lrgf _ | .ldVxDt _ | .ldKey _ => True
      | .drw _ _ _ | .drw16 _ _ | .addI _ => ∀ k, k ≠ 15#4 → t.getV k = s.getV k
      | _ => t.v = s.v) ∧
    (match i with
      | .jp _ | .call _ | .ret | .jpV0 _ => True
      | .seK _ _ | .sneK _ _ | .seR _ _ | .sneR _ _ | .skp _ | .sknp _ =>
        t.pc = s.pc ∨ t.pc = s.pc + 2#16 ∨ t.pc = s.pc + 4#16
      | .ldILong _ => t.pc = s.pc + 4#16
      | _ => t.pc = s.pc ∨ t.pc = s.pc + 2#16) ∧
    (match i with
      | .exit | .jp _ | .low | .high | .audio | .pitch _ => True
      | _ => t.events = s.events) ∧
    (match i with
      | .call _ | .ret | .drw _ _ _ | .drw16 _ _ | .bcd _ | .ldMemV _ | .save _ _ | .ldVMem _ | .load _ _ | .audio
      | .skp _ | .sknp _ | .plane _ => True
      | _ => t.fatal = s.fatal) ∧
    (match i with
      | .exit => t.executed = s.executed
      | _ => t.executed = s.executed ∨ t.executed = s.executed + 1)

/-- R243, R244: an instruction raises only the fatal errors the table lists for it, and one that raises changes nothing
but `fatal` and the batch it ends (D37; the list is derived there from R241). -/
def Obligations.FatalErrorsAreListedAndPrecise : Prop :=
  ∀ (i : Instr) (s t : State) (e : FatalError), s.fatal = none → exec i s = .next t → t.fatal = some e →
    t = Failed s e ∧
    (match i, e with
      | .call _, .stackFull _ _ | .ret, .stackEmpty _ _ => True
      | .drw _ _ _, .memReadOutOfRange _ _ _ _ | .drw16 _ _, .memReadOutOfRange _ _ _ _ => True
      | .bcd _, .memoryOverflow _ _ _ _ | .ldMemV _, .memoryOverflow _ _ _ _
      | .save _ _, .memoryOverflow _ _ _ _ => True
      | .ldVMem _, .memReadOutOfRange _ _ _ _ | .load _ _, .memReadOutOfRange _ _ _ _
      | .audio, .memReadOutOfRange _ _ _ _ => True
      | .skp _, .invalidKeyIndex _ _ | .sknp _, .invalidKeyIndex _ _ => True
      | .plane _, .invalidPlaneMask _ _ => True
      | _, _ => False)

/-- R2, R39 (D2, D43): the dialect does not change what any instruction does. -/
def Obligations.DialectDoesNotChangeExecution : Prop :=
  ∀ (i : Instr) (s : State) (d : Dialect),
    exec i { s with dialect := d } =
      match exec i s with
      | .next t => .next { t with dialect := d }
      | .fault e => .fault e
      | .refused r => .refused r

/-! ### Arithmetic and logic -/

/-- R140, R142: `LD Vx, kk` and `LD Vx, Vy` write V[x] and PC alone. -/
def Obligations.LoadsOfVxWriteVxAlone : Prop :=
  ∀ (x : RegIdx) (s : State),
    (∀ kk, ∃ t, exec (.ldK x kk) s = .next t ∧ (∀ k, t.getV k = if k = x then kk else s.getV k) ∧
      Counted { s with v := t.v, pc := s.pc + 2#16 } t) ∧
    (∀ y, ∃ t, exec (.ldR x y) s = .next t ∧ (∀ k, t.getV k = if k = x then s.getV y else s.getV k) ∧
      Counted { s with v := t.v, pc := s.pc + 2#16 } t)

/-- R141: `ADD Vx, kk` adds modulo 256 and writes no flag (D9). -/
def Obligations.AddByteWrapsWithoutFlag : Prop :=
  ∀ (x : RegIdx) (kk : Byte) (s : State), ∃ t, exec (.addK x kk) s = .next t ∧
    (t.getV x).toNat = ((s.getV x).toNat + kk.toNat) % 256 ∧ (∀ k, k ≠ x → t.getV k = s.getV k) ∧
    Counted { s with v := t.v, pc := s.pc + 2#16 } t

/-- R143, R144, R145: the bitwise instructions; under `Q.vf_reset` VF ends 0 whatever the destination. -/
def Obligations.BitwiseOpsAndVfReset : Prop :=
  ∀ (x y : RegIdx) (s : State), ∀ c ∈ [(Instr.or x y, s.getV x ||| s.getV y), (.and x y, s.getV x &&& s.getV y),
      (.xor x y, s.getV x ^^^ s.getV y)],
    ∃ t, exec c.1 s = .next t ∧
      (∀ k, t.getV k = if s.quirks.vfReset = true ∧ k = 15#4 then 0#8 else if k = x then c.2 else s.getV k) ∧
      Counted { s with v := t.v, pc := s.pc + 2#16 } t

/-- R146: `ADD Vx, Vy`: V[x] is the sum modulo 256, VF is 1 iff the sum exceeds 255; with x = 15 VF ends as the flag
(D7). -/
def Obligations.AddSetsCarry : Prop :=
  ∀ (x y : RegIdx) (s : State), ∃ t, exec (.addR x y) s = .next t ∧
    (x ≠ 15#4 → (t.getV x).toNat = ((s.getV x).toNat + (s.getV y).toNat) % 256) ∧
    (t.getV 15#4).toNat = (if (s.getV x).toNat + (s.getV y).toNat > 255 then 1 else 0) ∧
    (∀ k, k ≠ x → k ≠ 15#4 → t.getV k = s.getV k) ∧ Counted { s with v := t.v, pc := s.pc + 2#16 } t

/-- R147, R149: `SUB` is Vx - Vy and `SUBN` is Vy - Vx modulo 256, VF is 1 iff there is no borrow; with x = 15 VF ends
as the flag (D7). -/
def Obligations.SubtractionsSetNoBorrow : Prop :=
  ∀ (x y : RegIdx) (s : State), ∀ c ∈ [(Instr.sub x y, s.getV x, s.getV y), (.subn x y, s.getV y, s.getV x)],
    ∃ t, exec c.1 s = .next t ∧
      (x ≠ 15#4 → (t.getV x).toNat = (256 + c.2.1.toNat - c.2.2.toNat) % 256) ∧
      (t.getV 15#4).toNat = (if c.2.1.toNat ≥ c.2.2.toNat then 1 else 0) ∧
      (∀ k, k ≠ x → k ≠ 15#4 → t.getV k = s.getV k) ∧ Counted { s with v := t.v, pc := s.pc + 2#16 } t

/-- R148, R150: the shifts by one of V[y] (`Q.shift_y`) or V[x]; VF is the bit shifted out (D8), and with x = 15 VF ends
as that bit (D7). -/
def Obligations.ShiftsSetTheBitShiftedOut : Prop :=
  ∀ (x y : RegIdx) (s : State),
    let src := (if s.quirks.shiftY then s.getV y else s.getV x).toNat
    ∀ c ∈ [(Instr.shr x y, src / 2, src % 2), (.shl x y, src * 2 % 256, src / 128)],
    ∃ t, exec c.1 s = .next t ∧ (x ≠ 15#4 → (t.getV x).toNat = c.2.1) ∧ (t.getV 15#4).toNat = c.2.2 ∧
      (∀ k, k ≠ x → k ≠ 15#4 → t.getV k = s.getV k) ∧ Counted { s with v := t.v, pc := s.pc + 2#16 } t

/-- R151: `RND Vx, kk` writes the drawn byte masked by kk and nothing else. The drawn byte is free (D35): it is an opaque
constant at the count of draws, the model's own field (log 5). -/
def Obligations.RandomByteIsMasked : Prop :=
  ∀ (x : RegIdx) (kk : Byte) (s : State), ∃ t, exec (.rnd x kk) s = .next t ∧
    (∀ k, t.getV k = if k = x then Config.randomByte s.randDraws &&& kk else s.getV k) ∧
    Counted { s with v := t.v, pc := s.pc + 2#16, randDraws := s.randDraws + 1 } t

/-! ### Index register and memory transfers -/

/-- R160: `LD I, nnn`. -/
def Obligations.LoadIndexZeroExtends : Prop :=
  ∀ (nnn : BitVec 12) (s : State), ∃ t, exec (.ldI nnn) s = .next t ∧ t.i.toNat = nnn.toNat ∧
    Counted { s with i := t.i, pc := s.pc + 2#16 } t

/-- R161: `LD I, long`: the words F000 NNNN at PC set I and advance PC by 4; where memory ends before the second word
the step raises `MemReadOutOfRange` with PC and I unchanged. -/
def Obligations.LongLoadOfIndex : Prop :=
  (∀ (nnnn : Word) (s : State), ∃ t, exec (.ldILong nnnn) s = .next t ∧
    Counted { s with i := nnnn, pc := s.pc + 4#16 } t) ∧
  (∀ s : State, s.fatal = none → 0 < s.batchLeft → s.pc.toNat + 2 ≤ 4096 →
    memGet s.mem s.pc.toNat = 0xF0#8 → memGet s.mem (s.pc.toNat + 1) = 0x00#8 →
    (s.pc.toNat + 4 ≤ 4096 → ∃ t, step s = .next t ∧
      Counted { s with
        i := memGet s.mem (s.pc.toNat + 2) ++ memGet s.mem (s.pc.toNat + 3), pc := s.pc + 4#16 } t) ∧
    (4096 < s.pc.toNat + 4 →
      step s = .next (Failed s (.memReadOutOfRange (s.pc + 2#16) 2 s.pc (some 0xF000#16)))))

/-- R162: `ADD I, Vx` wraps modulo 65536, and under `Q.add_i_carry` sets VF to 1 iff the sum exceeds 0x0FFF, else VF is
unchanged (D10, D11). -/
def Obligations.AddIndexAndItsCarry : Prop :=
  ∀ (x : RegIdx) (s : State), ∃ t, exec (.addI x) s = .next t ∧
    t.i.toNat = (s.i.toNat + (s.getV x).toNat) % 65536 ∧
    (s.quirks.addICarry = true →
      (t.getV 15#4).toNat = if s.i.toNat + (s.getV x).toNat > 0x0FFF then 1 else 0) ∧
    (∀ k, k ≠ 15#4 ∨ s.quirks.addICarry = false → t.getV k = s.getV k) ∧
    Counted { s with v := t.v, i := t.i, pc := s.pc + 2#16 } t

/-- R163, R164: I points at the 5-byte or 10-byte glyph of the low nibble of V[x] (D12). -/
def Obligations.FontPointersReachTheGlyph : Prop :=
  ∀ (x : RegIdx) (s : State), ∀ c ∈ [(Instr.ldF x, 0x050, 5), (.ldHf x, 0x0A0, 10)],
    ∃ t, exec c.1 s = .next t ∧ t.i.toNat = c.2.1 + c.2.2 * ((s.getV x).toNat % 16) ∧
      Counted { s with i := t.i, pc := s.pc + 2#16 } t

/-- R165: `BCD Vx` writes the three decimal digits of V[x] at I, I+1, I+2 and no other byte; past the end of memory it
raises `MemoryOverflow` and writes none. -/
def Obligations.BcdStoresThreeDigits : Prop :=
  ∀ (x : RegIdx) (s : State), s.mem.wf →
    (s.i.toNat + 3 ≤ 4096 → ∃ t, exec (.bcd x) s = .next t ∧
      (memGet t.mem s.i.toNat).toNat = (s.getV x).toNat / 100 ∧
      (memGet t.mem (s.i.toNat + 1)).toNat = (s.getV x).toNat / 10 % 10 ∧
      (memGet t.mem (s.i.toNat + 2)).toNat = (s.getV x).toNat % 10 ∧
      (∀ a, a < s.i.toNat ∨ s.i.toNat + 3 ≤ a → memGet t.mem a = memGet s.mem a) ∧
      Counted { s with mem := t.mem, pc := s.pc + 2#16 } t) ∧
    (4096 < s.i.toNat + 3 → exec (.bcd x) s =
      .next (Failed s (.memoryOverflow s.i 3 s.pc (some (0xF#4 ++ x ++ 0x33#8)))))

/-- R166: `LD [I], Vx` stores V0..Vx at I and no other byte, and advances I by the count under `Q.index_increment`; past
the end of memory it raises `MemoryOverflow` and writes none. -/
def Obligations.StoreRegistersAtIndex : Prop :=
  ∀ (x : RegIdx) (s : State), s.mem.wf →
    (s.i.toNat + x.toNat + 1 ≤ 4096 → ∃ t, exec (.ldMemV x) s = .next t ∧
      (∀ k : RegIdx, k.toNat ≤ x.toNat → memGet t.mem (s.i.toNat + k.toNat) = s.getV k) ∧
      (∀ a, a < s.i.toNat ∨ s.i.toNat + x.toNat + 1 ≤ a → memGet t.mem a = memGet s.mem a) ∧
      t.i.toNat = (if s.quirks.indexIncrement then s.i.toNat + x.toNat + 1 else s.i.toNat) ∧
      Counted { s with mem := t.mem, i := t.i, pc := s.pc + 2#16 } t) ∧
    (4096 < s.i.toNat + x.toNat + 1 → exec (.ldMemV x) s =
      .next (Failed s (.memoryOverflow s.i (x.toNat + 1) s.pc (some (0xF#4 ++ x ++ 0x55#8)))))

/-- R167: `LD Vx, [I]` loads V0..Vx from I, and advances I by the count under `Q.index_increment`; past the end of
memory it raises `MemReadOutOfRange` (D14). -/
def Obligations.LoadRegistersFromIndex : Prop :=
  ∀ (x : RegIdx) (s : State),
    (s.i.toNat + x.toNat + 1 ≤ 4096 → ∃ t, exec (.ldVMem x) s = .next t ∧
      (∀ k : RegIdx, t.getV k = if k.toNat ≤ x.toNat then memGet s.mem (s.i.toNat + k.toNat) else s.getV k) ∧
      t.i.toNat = (if s.quirks.indexIncrement then s.i.toNat + x.toNat + 1 else s.i.toNat) ∧
      Counted { s with v := t.v, i := t.i, pc := s.pc + 2#16 } t) ∧
    (4096 < s.i.toNat + x.toNat + 1 → exec (.ldVMem x) s =
      .next (Failed s (.memReadOutOfRange s.i (x.toNat + 1) s.pc (some (0xF#4 ++ x ++ 0x65#8)))))

/-- R168: `SAVE Vx-Vy` stores the registers from Vx to Vy, in that direction, at I and no other byte; I is unchanged
(D22). Past the end of memory it raises `MemoryOverflow` and writes none. -/
def Obligations.SaveRangeStoresInOrder : Prop :=
  ∀ (x y : RegIdx) (s : State), s.mem.wf →
    let n := (x.toNat - y.toNat) + (y.toNat - x.toNat) + 1
    (s.i.toNat + n ≤ 4096 → ∃ t, exec (.save x y) s = .next t ∧
      (∀ j, j < n → memGet t.mem (s.i.toNat + j) =
        s.getV (if x.toNat ≤ y.toNat then x + BitVec.ofNat 4 j else x - BitVec.ofNat 4 j)) ∧
      (∀ a, a < s.i.toNat ∨ s.i.toNat + n ≤ a → memGet t.mem a = memGet s.mem a) ∧
      Counted { s with mem := t.mem, pc := s.pc + 2#16 } t) ∧
    (4096 < s.i.toNat + n → exec (.save x y) s =
      .next (Failed s (.memoryOverflow s.i n s.pc (some (0x5#4 ++ x ++ y ++ 0x2#4)))))

/-- R169: `LOAD Vx-Vy` loads the registers from Vx to Vy, in that direction, from I, and no other register; I is
unchanged (D22). Past the end of memory it raises `MemReadOutOfRange`. -/
def Obligations.LoadRangeLoadsInOrder : Prop :=
  ∀ (x y : RegIdx) (s : State),
    let n := (x.toNat - y.toNat) + (y.toNat - x.toNat) + 1
    (s.i.toNat + n ≤ 4096 → ∃ t, exec (.load x y) s = .next t ∧
      (∀ j, j < n → t.getV (if x.toNat ≤ y.toNat then x + BitVec.ofNat 4 j else x - BitVec.ofNat 4 j) =
        memGet s.mem (s.i.toNat + j)) ∧
      (∀ k : RegIdx, k.toNat < min x.toNat y.toNat ∨ max x.toNat y.toNat < k.toNat → t.getV k = s.getV k) ∧
      Counted { s with v := t.v, pc := s.pc + 2#16 } t) ∧
    (4096 < s.i.toNat + n → exec (.load x y) s =
      .next (Failed s (.memReadOutOfRange s.i n s.pc (some (0x5#4 ++ x ++ y ++ 0x3#4)))))

/-- R170, R171: `SRGF` and `LRGF` copy V0..Vx to and from the start of flag storage (16 bytes, D23); I is unchanged and
neither can fail. -/
def Obligations.FlagStorageSavesAndRestores : Prop :=
  ∀ (x : RegIdx) (s : State),
    (∃ t, exec (.srgf x) s = .next t ∧
      (∀ k : RegIdx, t.flags[k.toNat] = if k.toNat ≤ x.toNat then s.getV k else s.flags[k.toNat]) ∧
      Counted { s with flags := t.flags, pc := s.pc + 2#16 } t) ∧
    (∃ t, exec (.lrgf x) s = .next t ∧
      (∀ k : RegIdx, t.getV k = if k.toNat ≤ x.toNat then s.flags[k.toNat] else s.getV k) ∧
      Counted { s with v := t.v, pc := s.pc + 2#16 } t)

/-! ### Control flow -/

/-- R120: `JP nnn` sets PC to nnn; a jump to itself is not executed and stops the batch with `Loop`; the fetch at the
target fails only for nnn = 0xFFF. -/
def Obligations.JumpSetsPcOrReportsALoop : Prop :=
  ∀ (nnn : BitVec 12) (s : State),
    (nnn.toNat ≠ s.pc.toNat → ∃ t, exec (.jp nnn) s = .next t ∧ t.pc.toNat = nnn.toNat ∧
      (fetchWord t.mem t.pc = none ↔ nnn = 0xFFF#12) ∧ Counted { s with pc := t.pc } t) ∧
    (nnn.toNat = s.pc.toNat → exec (.jp nnn) s =
      .next (Stopped { s with events := s.events ++ [.loopDetected] } .loop))

/-- R27, R121, R122: `CALL` pushes the address after it (D6) and jumps, `StackFull` at depth 16; `RET` pops PC,
`StackEmpty` at depth 0. -/
def Obligations.CallPushesAndRetPops : Prop :=
  ∀ (nnn : BitVec 12) (s : State),
    (s.stack.length < 16 → ∃ t, exec (.call nnn) s = .next t ∧ t.pc.toNat = nnn.toNat ∧
      Counted { s with stack := (s.pc + 2#16) :: s.stack, pc := t.pc } t) ∧
    (16 ≤ s.stack.length → exec (.call nnn) s = .next (Failed s (.stackFull s.pc (0x2#4 ++ nnn)))) ∧
    (∀ a rest, s.stack = a :: rest → ∃ t, exec .ret s = .next t ∧ Counted { s with stack := rest, pc := a } t) ∧
    (s.stack = [] → exec .ret s = .next (Failed s (.stackEmpty s.pc 0x00EE#16)))

/-- R121, R122, R130: a `CALL` changes the stack, PC and the counts alone; a `RET` that finds the stack as a `CALL` left
it returns to the address after the `CALL` with the caller's stack, and changes nothing else but the counts (D6). -/
def Obligations.RetReturnsAfterTheCall : Prop :=
  ∀ (nnn : BitVec 12) (s t u : State), s.stack.length < 16 → exec (.call nnn) s = .next t → u.stack = t.stack →
    Counted { s with stack := (s.pc + 2#16) :: s.stack, pc := nnn.setWidth 16 } t ∧
    ∃ w, exec .ret u = .next w ∧ Counted { u with stack := s.stack, pc := s.pc + 2#16 } w

/-- R123: `JP V0, nnn` jumps to nnn plus V0, or plus V[x], x the upper nibble of nnn, under `Q.jump_vx` (the sum of
widths is D39's); a target equal to PC is no loop (D25). -/
def Obligations.OffsetJumpAddsTheRegister : Prop :=
  ∀ (nnn : BitVec 12) (s : State), ∃ t, exec (.jpV0 nnn) s = .next t ∧
    t.pc.toNat = nnn.toNat +
      (s.getV (if s.quirks.jumpVx then BitVec.ofNat 4 (nnn.toNat / 256) else 0#4)).toNat ∧
    Counted { s with pc := t.pc } t

/-- R124 to R127: a skip advances PC by 4 when its condition holds and by 2 otherwise, and writes nothing else. -/
def Obligations.SkipsAdvanceTwoOrFour : Prop :=
  ∀ (x y : RegIdx) (kk : Byte) (s : State),
    ∀ c ∈ [(Instr.seK x kk, decide (s.getV x = kk)), (.sneK x kk, decide (s.getV x ≠ kk)),
      (.seR x y, decide (s.getV x = s.getV y)), (.sneR x y, decide (s.getV x ≠ s.getV y))],
    ∃ t, exec c.1 s = .next t ∧ Counted { s with pc := if c.2 then s.pc + 4#16 else s.pc + 2#16 } t

/-- R105: `EXIT` is not executed: it emits the exited notification and stops the batch with `Exit`, PC at the
instruction. -/
def Obligations.ExitStopsTheBatch : Prop :=
  ∀ s : State, exec .exit s = .next (Stopped { s with events := s.events ++ [.exited] } .exit)

/-- R91, R129 (D4): `SYS nnn`, decoded only under `SYS_IS_NOP`, advances PC and does nothing else; without
`SYS_IS_NOP` no word decodes to it. -/
def Obligations.SysIsANopUnderItsParameter : Prop :=
  (∀ (nnn : BitVec 12) (s : State), ∃ t, exec (.sys nnn) s = .next t ∧ Counted { s with pc := s.pc + 2#16 } t) ∧
  (∀ (w : Word) (nnn : BitVec 12), decodeWord false w ≠ .instr (.sys nnn))

/-! ### Timers and keypad -/

/-- R181, R182: `LD DT, Vx` and `LD ST, Vx` store V[x] in a timer and the sound is on while ST > 0; `LD Vx, DT` (R180)
reads the delay timer. -/
def Obligations.TimerInstructionsMoveBytes : Prop :=
  ∀ (x : RegIdx) (s : State),
    (∃ t, exec (.ldDt x) s = .next t ∧ Counted { s with dt := s.getV x, pc := s.pc + 2#16 } t) ∧
    (∃ t, exec (.ldSt x) s = .next t ∧ (t.isBeeping = true ↔ s.getV x ≠ 0#8) ∧
      Counted { s with st := s.getV x, pc := s.pc + 2#16 } t) ∧
    (∃ t, exec (.ldVxDt x) s = .next t ∧ (∀ k, t.getV k = if k = x then s.dt else s.getV k) ∧
      Counted { s with v := t.v, pc := s.pc + 2#16 } t)

/-- R183: `LDK Vx` consumes a latched release and advances; without one PC stays, and both count as executed (D28, D29,
D47). -/
def Obligations.KeyWaitConsumesTheRelease : Prop :=
  ∀ (x : RegIdx) (s : State),
    (∀ l, s.latch = some l → ∃ t, exec (.ldKey x) s = .next t ∧ (t.getV x).toNat = l.key.toNat ∧
      (∀ k, k ≠ x → t.getV k = s.getV k) ∧
      Counted { s with v := t.v, latch := none, pc := s.pc + 2#16 } t) ∧
    (s.latch = none → ∃ t, exec (.ldKey x) s = .next t ∧ Counted s t)

/-- R184, R185: `SKP` and `SKNP` skip by the state of the key V[x] names; above 15 they raise `InvalidKeyIndex` with
nothing changed (D15). -/
def Obligations.KeySkipsReadTheKey : Prop :=
  ∀ (x : RegIdx) (s : State),
    (∀ h : (s.getV x).toNat < 16,
      (∃ t, exec (.skp x) s = .next t ∧
        Counted { s with pc := if s.down[(s.getV x).toNat] then s.pc + 4#16 else s.pc + 2#16 } t) ∧
      (∃ t, exec (.sknp x) s = .next t ∧
        Counted { s with pc := if s.down[(s.getV x).toNat] then s.pc + 2#16 else s.pc + 4#16 } t)) ∧
    (16 ≤ (s.getV x).toNat →
      exec (.skp x) s = .next (Failed s (.invalidKeyIndex (s.getV x).toNat s.pc)) ∧
      exec (.sknp x) s = .next (Failed s (.invalidKeyIndex (s.getV x).toNat s.pc)))

/-! ### Display -/

/-- R190 to R195, R198: a draw that need not wait toggles exactly the pixels the sprite touches on the targeted planes,
sets VF to 1 iff one of them was set, and counts as a draw; where its bytes leave memory it raises `MemReadOutOfRange`
before any pixel changes. (D14, D17, D18, D20, D40 to D42.) -/
def Obligations.PlainDrawTogglesTouchedPixels : Prop :=
  ∀ (x y : RegIdx) (n : BitVec 4) (s : State), n ≠ 0#4 → ¬(s.quirks.displayWait = true ∧ 1 ≤ s.drawsInBatch) →
    let bytes := if s.pmask = 0#2 then 0 else if s.pmask = 3#2 then 2 * n.toNat else n.toNat
    let touched (a : Nat) (px py : Nat) : Prop :=
      Touches s.mode.factor 8 n.toNat s.quirks.drawClipping (s.getV x).toNat (s.getV y).toNat (plainBit s.mem a) px py
    let touched0 (px py : Nat) : Prop := s.pmask.getLsbD 0 = true ∧ touched s.i.toNat px py
    let touched1 (px py : Nat) : Prop :=
      s.pmask.getLsbD 1 = true ∧ touched (if s.pmask = 3#2 then s.i.toNat + n.toNat else s.i.toNat) px py
    (bytes = 0 ∨ s.i.toNat + bytes ≤ 4096 → ∃ t, exec (.drw x y n) s = .next t ∧
      (∀ px py, px < 128 → py < 64 →
        (t.plane0.pixel px py = true ↔ Xor (s.plane0.pixel px py = true) (touched0 px py)) ∧
        (t.plane1.pixel px py = true ↔ Xor (s.plane1.pixel px py = true) (touched1 px py))) ∧
      ((∃ px py, px < 128 ∧ py < 64 ∧
          ((touched0 px py ∧ s.plane0.pixel px py = true) ∨ (touched1 px py ∧ s.plane1.pixel px py = true))) →
        t.getV 15#4 = 1#8) ∧
      ((¬∃ px py, px < 128 ∧ py < 64 ∧
          ((touched0 px py ∧ s.plane0.pixel px py = true) ∨ (touched1 px py ∧ s.plane1.pixel px py = true))) →
        t.getV 15#4 = 0#8) ∧
      (∀ k, k ≠ 15#4 → t.getV k = s.getV k) ∧
      Counted { s with
        v := t.v, plane0 := t.plane0, plane1 := t.plane1, pc := s.pc + 2#16, drawsInBatch := s.drawsInBatch + 1 } t) ∧
    (bytes ≠ 0 → 4096 < s.i.toNat + bytes → exec (.drw x y n) s =
      .next (Failed s (.memReadOutOfRange s.i bytes s.pc (some (0xD#4 ++ x ++ y ++ n)))))

/-- R190, R191, R194, R196, R197, R199: the 16 x 16 draw, 32 bytes a plane, in physical coordinates in both modes.
(D14, D17, D19, D20, D40 to D42.) -/
def Obligations.SuperDrawTogglesTouchedPixels : Prop :=
  ∀ (x y : RegIdx) (s : State), ¬(s.quirks.displayWait = true ∧ 1 ≤ s.drawsInBatch) →
    let bytes := if s.pmask = 0#2 then 0 else if s.pmask = 3#2 then 64 else 32
    let touched (a : Nat) (px py : Nat) : Prop :=
      Touches 1 16 16 s.quirks.drawClipping (s.getV x).toNat (s.getV y).toNat (superBit s.mem a) px py
    let touched0 (px py : Nat) : Prop := s.pmask.getLsbD 0 = true ∧ touched s.i.toNat px py
    let touched1 (px py : Nat) : Prop :=
      s.pmask.getLsbD 1 = true ∧ touched (if s.pmask = 3#2 then s.i.toNat + 32 else s.i.toNat) px py
    (bytes = 0 ∨ s.i.toNat + bytes ≤ 4096 → ∃ t, exec (.drw16 x y) s = .next t ∧
      (∀ px py, px < 128 → py < 64 →
        (t.plane0.pixel px py = true ↔ Xor (s.plane0.pixel px py = true) (touched0 px py)) ∧
        (t.plane1.pixel px py = true ↔ Xor (s.plane1.pixel px py = true) (touched1 px py))) ∧
      ((∃ px py, px < 128 ∧ py < 64 ∧
          ((touched0 px py ∧ s.plane0.pixel px py = true) ∨ (touched1 px py ∧ s.plane1.pixel px py = true))) →
        t.getV 15#4 = 1#8) ∧
      ((¬∃ px py, px < 128 ∧ py < 64 ∧
          ((touched0 px py ∧ s.plane0.pixel px py = true) ∨ (touched1 px py ∧ s.plane1.pixel px py = true))) →
        t.getV 15#4 = 0#8) ∧
      (∀ k, k ≠ 15#4 → t.getV k = s.getV k) ∧
      Counted { s with
        v := t.v, plane0 := t.plane0, plane1 := t.plane1, pc := s.pc + 2#16, drawsInBatch := s.drawsInBatch + 1 } t) ∧
    (bytes ≠ 0 → 4096 < s.i.toNat + bytes → exec (.drw16 x y) s =
      .next (Failed s (.memReadOutOfRange s.i bytes s.pc (some (0xD#4 ++ x ++ y ++ 0x0#4)))))

/-- R108 (D24): under `Q.display_wait` a draw after the first of a batch is not executed and ends the batch with
`DisplayWait`, PC at the draw. -/
def Obligations.SecondDrawOfABatchWaits : Prop :=
  ∀ (x y : RegIdx) (n : BitVec 4) (s : State), s.quirks.displayWait = true → 1 ≤ s.drawsInBatch →
    exec (.drw x y n) s = .next (Stopped s .displayWait) ∧ exec (.drw16 x y) s = .next (Stopped s .displayWait)

/-- R193, R198, R199 (and the spec's S7): a sprite of either size drawn a second time at the same place, from any state
that has the planes the first draw left and the sprite's bytes, place, mask, mode and clipping of the first, restores both
planes; and where the targeted planes were empty and the first draw changed a pixel, the first draw reports no collision
and the second one does. The first draw changes no register but VF, so with x and y not 15 the second may follow at once.
(D14, D17 to D20, D40 to D42; that a draw may have to wait is D24's.) -/
def Obligations.SameSpriteTwiceRestoresThePlanes : Prop :=
  ∀ (x y : RegIdx) (n : BitVec 4) (s : State), ¬(s.quirks.displayWait = true ∧ 1 ≤ s.drawsInBatch) →
    ∀ c ∈ [(Instr.drw x y n, n.toNat), (.drw16 x y, 32)],
    let bytes := if s.pmask = 0#2 then 0 else if s.pmask = 3#2 then 2 * c.2 else c.2
    (bytes = 0 ∨ s.i.toNat + bytes ≤ 4096) →
    ∃ t, exec c.1 s = .next t ∧ (∀ k, k ≠ 15#4 → t.getV k = s.getV k) ∧
      ∀ u : State, ¬(u.quirks.displayWait = true ∧ 1 ≤ u.drawsInBatch) →
        u.plane0 = t.plane0 → u.plane1 = t.plane1 → u.mem = s.mem → u.i = s.i → u.pmask = s.pmask →
        u.mode = s.mode → u.quirks.drawClipping = s.quirks.drawClipping → u.getV x = s.getV x → u.getV y = s.getV y →
        ∃ w, exec c.1 u = .next w ∧ w.plane0 = s.plane0 ∧ w.plane1 = s.plane1 ∧
          ((s.pmask.getLsbD 0 = true → s.plane0 = Plane.clear) → (s.pmask.getLsbD 1 = true → s.plane1 = Plane.clear) →
            (t.plane0 ≠ s.plane0 ∨ t.plane1 ≠ s.plane1) → t.getV 15#4 = 0#8 ∧ w.getV 15#4 = 1#8)

/-- R200: `CLS` clears every pixel of the targeted planes and keeps an untargeted plane. -/
def Obligations.ClearScreenClearsTargetedPlanes : Prop :=
  ∀ s : State, ∃ t, exec .cls s = .next t ∧
    (∀ px py, t.plane0.pixel px py = (s.plane0.pixel px py && !s.pmask.getLsbD 0)) ∧
    (∀ px py, t.plane1.pixel px py = (s.plane1.pixel px py && !s.pmask.getLsbD 1)) ∧
    Counted { s with plane0 := t.plane0, plane1 := t.plane1, pc := s.pc + 2#16 } t

/-- R201, R202, R205, R206 (and R203, R204 with D5's n = 0): a scroll moves every pixel of the targeted planes by the
amount, fills the vacated pixels with 0, and does not wrap. -/
def Obligations.ScrollsMoveEveryPixel : Prop :=
  ∀ (n : BitVec 4) (s : State),
    let a := scrollBy s n.toNat
    let b := scrollBy s 4
    ∀ c ∈ [(Instr.scd n, fun (p : Plane) px py => decide (a ≤ py) && p.pixel px (py - a)),
      (.scu n, fun p px py => decide (py + a < 64) && p.pixel px (py + a)),
      (.scr, fun p px py => decide (b ≤ px) && p.pixel (px - b) py),
      (.scl, fun p px py => decide (px + b < 128) && p.pixel (px + b) py)],
    ∃ t, exec c.1 s = .next t ∧
      (∀ px py, px < 128 → py < 64 →
        t.plane0.pixel px py = (if s.pmask.getLsbD 0 then c.2 s.plane0 px py else s.plane0.pixel px py) ∧
        t.plane1.pixel px py = (if s.pmask.getLsbD 1 then c.2 s.plane1 px py else s.plane1.pixel px py)) ∧
      Counted { s with plane0 := t.plane0, plane1 := t.plane1, pc := s.pc + 2#16 } t

/-- R207, R208 (D21): `LOW` and `HIGH` set the mode and notify, and keep the planes; R209: `PLANE n` sets the mask, n > 3
raises `InvalidPlaneMask` (D16). -/
def Obligations.ModeAndPlaneSelection : Prop :=
  ∀ (n : BitVec 4) (s : State),
    (∃ t, exec .low s = .next t ∧
      Counted { s with mode := .lores, events := s.events ++ [.enteredLores], pc := s.pc + 2#16 } t) ∧
    (∃ t, exec .high s = .next t ∧
      Counted { s with mode := .hires, events := s.events ++ [.enteredHires], pc := s.pc + 2#16 } t) ∧
    (n.toNat ≤ 3 → ∃ t, exec (.plane n) s = .next t ∧ t.pmask.toNat = n.toNat ∧
      Counted { s with pmask := t.pmask, pc := s.pc + 2#16 } t) ∧
    (3 < n.toNat → exec (.plane n) s = .next (Failed s (.invalidPlaneMask n s.pc)))

/-! ### Audio -/

/-- R221: `PITCH Vx` sets the pitch and notifies with the new pitch's frequency, by its exponent (R222), and the
pattern. -/
def Obligations.PitchIsSetAndNotified : Prop :=
  ∀ (x : RegIdx) (s : State), ∃ t, exec (.pitch x) s = .next t ∧
    Counted { s with
      pitch := s.getV x, pc := s.pc + 2#16,
      events := s.events ++ [.audioUpdated ⟨((s.getV x).toNat : Int) - 64⟩ s.pattern] } t

/-- R220: `AUDIO` copies the 16 bytes at I into the pattern and notifies; past the end of memory it raises
`MemReadOutOfRange` (D14). -/
def Obligations.AudioLoadsThePattern : Prop :=
  ∀ s : State,
    (s.i.toNat + 16 ≤ 4096 → ∃ t, exec .audio s = .next t ∧
      (∀ j, (h : j < 16) → t.pattern[j] = memGet s.mem (s.i.toNat + j)) ∧
      Counted { s with
        pattern := t.pattern, pc := s.pc + 2#16,
        events := s.events ++ [.audioUpdated ⟨(s.pitch.toNat : Int) - 64⟩ t.pattern] } t) ∧
    (4096 < s.i.toNat + 16 → exec .audio s =
      .next (Failed s (.memReadOutOfRange s.i 16 s.pc (some 0xF002#16))))

/-- R222: the frequency is 4000 * 2 ^ ((pitch - 64) / 48) Hz: 4000 at pitch 64, doubling every 48 steps. -/
def Obligations.FrequencyFollowsThePitch : Prop :=
  let hertz (f : Frequency) : ℝ := 4000 * (2 : ℝ) ^ ((f.steps : ℝ) / 48)
  (∀ p : Byte, hertz (frequency p) = 4000 * (2 : ℝ) ^ (((p.toNat : ℝ) - 64) / 48)) ∧ hertz (frequency 64#8) = 4000 ∧
    (∀ p q : Byte, q.toNat = p.toNat + 48 → hertz (frequency q) = 2 * hertz (frequency p))
end

