-- ==== Sys2Proof/Laws/Decode.lean ====
section
/-! SUPPORT. The fields of an encoded word, and words against bytes (spec/30_encoding.md R82, R83; spec/20_memory.md
R64, R65). -/

namespace Sys2Proof

set_option Elab.async false

@[simp] theorem fieldT_wordA (t : BitVec 4) (nnn : BitVec 12) : fieldT (wordA t nnn) = t := by
  apply BitVec.eq_of_getLsbD_eq
  intro i hi
  simp only [fieldT, wordA, BitVec.getLsbD_extractLsb', BitVec.getLsbD_append]
  simp [hi]

@[simp] theorem fieldNNN_wordA (t : BitVec 4) (nnn : BitVec 12) : fieldNNN (wordA t nnn) = nnn := by
  apply BitVec.eq_of_getLsbD_eq
  intro i hi
  simp only [fieldNNN, wordA, BitVec.getLsbD_extractLsb', BitVec.getLsbD_append]
  simp [hi]

@[simp] theorem fieldT_wordXK (t : BitVec 4) (x : RegIdx) (kk : Byte) : fieldT (wordXK t x kk) = t := by
  apply BitVec.eq_of_getLsbD_eq
  intro i hi
  simp only [fieldT, wordXK, BitVec.getLsbD_extractLsb', BitVec.getLsbD_append]
  have h1 : ¬ 12 + i < 8 := by omega
  have h2 : ¬ 12 + i - 8 < 4 := by omega
  simp [hi, h1, h2, show 12 + i - 8 - 4 = i by omega]

@[simp] theorem fieldX_wordXK (t : BitVec 4) (x : RegIdx) (kk : Byte) : fieldX (wordXK t x kk) = x := by
  apply BitVec.eq_of_getLsbD_eq
  intro i hi
  simp only [fieldX, wordXK, BitVec.getLsbD_extractLsb', BitVec.getLsbD_append]
  simp [hi]

@[simp] theorem fieldKK_wordXK (t : BitVec 4) (x : RegIdx) (kk : Byte) : fieldKK (wordXK t x kk) = kk := by
  apply BitVec.eq_of_getLsbD_eq
  intro i hi
  simp only [fieldKK, wordXK, BitVec.getLsbD_extractLsb', BitVec.getLsbD_append]
  simp [hi]

@[simp] theorem fieldT_wordXYN (t : BitVec 4) (x y : RegIdx) (n : BitVec 4) : fieldT (wordXYN t x y n) = t := by
  apply BitVec.eq_of_getLsbD_eq
  intro i hi
  simp only [fieldT, wordXYN, BitVec.getLsbD_extractLsb', BitVec.getLsbD_append]
  have h1 : ¬ 12 + i < 4 := by omega
  have h2 : ¬ 12 + i - 4 < 4 := by omega
  have h3 : ¬ 12 + i - 4 - 4 < 4 := by omega
  simp [hi, h1, h2, h3, show 12 + i - 4 - 4 - 4 = i by omega]

@[simp] theorem fieldX_wordXYN (t : BitVec 4) (x y : RegIdx) (n : BitVec 4) : fieldX (wordXYN t x y n) = x := by
  apply BitVec.eq_of_getLsbD_eq
  intro i hi
  simp only [fieldX, wordXYN, BitVec.getLsbD_extractLsb', BitVec.getLsbD_append]
  have h1 : ¬ 8 + i < 4 := by omega
  have h2 : ¬ 8 + i - 4 < 4 := by omega
  simp [hi, h1, h2, show 8 + i - 4 - 4 = i by omega]

@[simp] theorem fieldY_wordXYN (t : BitVec 4) (x y : RegIdx) (n : BitVec 4) : fieldY (wordXYN t x y n) = y := by
  apply BitVec.eq_of_getLsbD_eq
  intro i hi
  simp only [fieldY, wordXYN, BitVec.getLsbD_extractLsb', BitVec.getLsbD_append]
  simp [hi]

@[simp] theorem fieldN_wordXYN (t : BitVec 4) (x y : RegIdx) (n : BitVec 4) : fieldN (wordXYN t x y n) = n := by
  apply BitVec.eq_of_getLsbD_eq
  intro i hi
  simp only [fieldN, wordXYN, BitVec.getLsbD_extractLsb', BitVec.getLsbD_append]
  simp [hi]

/-- R64: the two bytes of a word make the word again. -/
@[simp] theorem wordOfBytes_bytes (w : Word) : wordOfBytes (w.extractLsb' 8 8) (w.extractLsb' 0 8) = w := by
  apply BitVec.eq_of_getLsbD_eq
  intro i hi
  simp only [wordOfBytes, BitVec.getLsbD_append, BitVec.getLsbD_extractLsb']
  by_cases h : i < 8
  · simp [h]
  · simp [h, show i - 8 < 8 by omega, show 8 + (i - 8) = i by omega]

/-- R92: the decoder on a two-word instruction's bytes, on any other instruction's, and on an illegal word's. -/
theorem decode_of_instr {sysIsNop : Bool} {w : Word} {i : Instr} (h : decodeWord sysIsNop w = .instr i)
    (rest : List Byte) : decode sysIsNop (bytesOfWord w ++ rest) = .ok (i, rest) := by
  simp [decode, bytesOfWord, h]

theorem decode_of_ldILong {sysIsNop : Bool} {w : Word} (h : decodeWord sysIsNop w = .ldILong) (nnnn : Word)
    (rest : List Byte) :
    decode sysIsNop (bytesOfWord w ++ bytesOfWord nnnn ++ rest) = .ok (.ldILong nnnn, rest) := by
  simp [decode, bytesOfWord, h]

theorem decode_of_fail {sysIsNop : Bool} {w : Word} (h : decodeWord sysIsNop w = .fail) (rest : List Byte) :
    decode sysIsNop (bytesOfWord w ++ rest) = .error (.badOpCode w) := by
  simp [decode, bytesOfWord, h]

/-- Only `LD I, long` has a second word (R80). -/
theorem encode_eq (i : Instr) (h : ∀ nnnn, i ≠ .ldILong nnnn) : encode i = bytesOfWord (firstWord i) := by
  cases i <;> simp_all [encode, encodeWords]

end Sys2Proof
end

