-- ==== Sys2Proof/Laws/State.lean ====
section
/-! SUPPORT. What each named update of State does to each field: one lemma per field per update, by rfl, so that no
later proof unfolds an update. -/

namespace Sys2Proof.Machine

set_option Elab.async false

variable (s : State)

/-! ### `setV` -/

@[simp] theorem State.setV_v (x : RegIdx) (b : Byte) : (s.setV x b).v = s.v.set x.toNat b x.isLt := rfl
@[simp] theorem State.setV_i (x : RegIdx) (b : Byte) : (s.setV x b).i = s.i := rfl
@[simp] theorem State.setV_pc (x : RegIdx) (b : Byte) : (s.setV x b).pc = s.pc := rfl
@[simp] theorem State.setV_stack (x : RegIdx) (b : Byte) : (s.setV x b).stack = s.stack := rfl
@[simp] theorem State.setV_dt (x : RegIdx) (b : Byte) : (s.setV x b).dt = s.dt := rfl
@[simp] theorem State.setV_st (x : RegIdx) (b : Byte) : (s.setV x b).st = s.st := rfl
@[simp] theorem State.setV_down (x : RegIdx) (b : Byte) : (s.setV x b).down = s.down := rfl
@[simp] theorem State.setV_ktick (x : RegIdx) (b : Byte) : (s.setV x b).ktick = s.ktick := rfl
@[simp] theorem State.setV_latch (x : RegIdx) (b : Byte) : (s.setV x b).latch = s.latch := rfl
@[simp] theorem State.setV_plane0 (x : RegIdx) (b : Byte) : (s.setV x b).plane0 = s.plane0 := rfl
@[simp] theorem State.setV_plane1 (x : RegIdx) (b : Byte) : (s.setV x b).plane1 = s.plane1 := rfl
@[simp] theorem State.setV_mode (x : RegIdx) (b : Byte) : (s.setV x b).mode = s.mode := rfl
@[simp] theorem State.setV_pmask (x : RegIdx) (b : Byte) : (s.setV x b).pmask = s.pmask := rfl
@[simp] theorem State.setV_pattern (x : RegIdx) (b : Byte) : (s.setV x b).pattern = s.pattern := rfl
@[simp] theorem State.setV_pitch (x : RegIdx) (b : Byte) : (s.setV x b).pitch = s.pitch := rfl
@[simp] theorem State.setV_mem (x : RegIdx) (b : Byte) : (s.setV x b).mem = s.mem := rfl
@[simp] theorem State.setV_flags (x : RegIdx) (b : Byte) : (s.setV x b).flags = s.flags := rfl
@[simp] theorem State.setV_executed (x : RegIdx) (b : Byte) : (s.setV x b).executed = s.executed := rfl
@[simp] theorem State.setV_drawsInBatch (x : RegIdx) (b : Byte) : (s.setV x b).drawsInBatch = s.drawsInBatch := rfl
@[simp] theorem State.setV_events (x : RegIdx) (b : Byte) : (s.setV x b).events = s.events := rfl
@[simp] theorem State.setV_fatal (x : RegIdx) (b : Byte) : (s.setV x b).fatal = s.fatal := rfl
@[simp] theorem State.setV_dialect (x : RegIdx) (b : Byte) : (s.setV x b).dialect = s.dialect := rfl
@[simp] theorem State.setV_quirks (x : RegIdx) (b : Byte) : (s.setV x b).quirks = s.quirks := rfl
@[simp] theorem State.setV_ipsBase (x : RegIdx) (b : Byte) : (s.setV x b).ipsBase = s.ipsBase := rfl
@[simp] theorem State.setV_params (x : RegIdx) (b : Byte) : (s.setV x b).params = s.params := rfl
@[simp] theorem State.setV_randDraws (x : RegIdx) (b : Byte) : (s.setV x b).randDraws = s.randDraws := rfl
@[simp] theorem State.setV_batchLeft (x : RegIdx) (b : Byte) : (s.setV x b).batchLeft = s.batchLeft := rfl
@[simp] theorem State.setV_outcome (x : RegIdx) (b : Byte) : (s.setV x b).outcome = s.outcome := rfl
@[simp] theorem State.setV_inputs (x : RegIdx) (b : Byte) : (s.setV x b).inputs = s.inputs := rfl

/-! ### `setCarry` -/

@[simp] theorem State.setCarry_v (b : Bool) : (s.setCarry b).v = s.v.set 15 (if b then 1#8 else 0#8) := rfl
@[simp] theorem State.setCarry_i (b : Bool) : (s.setCarry b).i = s.i := rfl
@[simp] theorem State.setCarry_pc (b : Bool) : (s.setCarry b).pc = s.pc := rfl
@[simp] theorem State.setCarry_stack (b : Bool) : (s.setCarry b).stack = s.stack := rfl
@[simp] theorem State.setCarry_dt (b : Bool) : (s.setCarry b).dt = s.dt := rfl
@[simp] theorem State.setCarry_st (b : Bool) : (s.setCarry b).st = s.st := rfl
@[simp] theorem State.setCarry_down (b : Bool) : (s.setCarry b).down = s.down := rfl
@[simp] theorem State.setCarry_ktick (b : Bool) : (s.setCarry b).ktick = s.ktick := rfl
@[simp] theorem State.setCarry_latch (b : Bool) : (s.setCarry b).latch = s.latch := rfl
@[simp] theorem State.setCarry_plane0 (b : Bool) : (s.setCarry b).plane0 = s.plane0 := rfl
@[simp] theorem State.setCarry_plane1 (b : Bool) : (s.setCarry b).plane1 = s.plane1 := rfl
@[simp] theorem State.setCarry_mode (b : Bool) : (s.setCarry b).mode = s.mode := rfl
@[simp] theorem State.setCarry_pmask (b : Bool) : (s.setCarry b).pmask = s.pmask := rfl
@[simp] theorem State.setCarry_pattern (b : Bool) : (s.setCarry b).pattern = s.pattern := rfl
@[simp] theorem State.setCarry_pitch (b : Bool) : (s.setCarry b).pitch = s.pitch := rfl
@[simp] theorem State.setCarry_mem (b : Bool) : (s.setCarry b).mem = s.mem := rfl
@[simp] theorem State.setCarry_flags (b : Bool) : (s.setCarry b).flags = s.flags := rfl
@[simp] theorem State.setCarry_executed (b : Bool) : (s.setCarry b).executed = s.executed := rfl
@[simp] theorem State.setCarry_drawsInBatch (b : Bool) : (s.setCarry b).drawsInBatch = s.drawsInBatch := rfl
@[simp] theorem State.setCarry_events (b : Bool) : (s.setCarry b).events = s.events := rfl
@[simp] theorem State.setCarry_fatal (b : Bool) : (s.setCarry b).fatal = s.fatal := rfl
@[simp] theorem State.setCarry_dialect (b : Bool) : (s.setCarry b).dialect = s.dialect := rfl
@[simp] theorem State.setCarry_quirks (b : Bool) : (s.setCarry b).quirks = s.quirks := rfl
@[simp] theorem State.setCarry_ipsBase (b : Bool) : (s.setCarry b).ipsBase = s.ipsBase := rfl
@[simp] theorem State.setCarry_params (b : Bool) : (s.setCarry b).params = s.params := rfl
@[simp] theorem State.setCarry_randDraws (b : Bool) : (s.setCarry b).randDraws = s.randDraws := rfl
@[simp] theorem State.setCarry_batchLeft (b : Bool) : (s.setCarry b).batchLeft = s.batchLeft := rfl
@[simp] theorem State.setCarry_outcome (b : Bool) : (s.setCarry b).outcome = s.outcome := rfl
@[simp] theorem State.setCarry_inputs (b : Bool) : (s.setCarry b).inputs = s.inputs := rfl

/-! ### `setI` -/

@[simp] theorem State.setI_v (a : Addr) : (s.setI a).v = s.v := rfl
@[simp] theorem State.setI_i (a : Addr) : (s.setI a).i = a := rfl
@[simp] theorem State.setI_pc (a : Addr) : (s.setI a).pc = s.pc := rfl
@[simp] theorem State.setI_stack (a : Addr) : (s.setI a).stack = s.stack := rfl
@[simp] theorem State.setI_dt (a : Addr) : (s.setI a).dt = s.dt := rfl
@[simp] theorem State.setI_st (a : Addr) : (s.setI a).st = s.st := rfl
@[simp] theorem State.setI_down (a : Addr) : (s.setI a).down = s.down := rfl
@[simp] theorem State.setI_ktick (a : Addr) : (s.setI a).ktick = s.ktick := rfl
@[simp] theorem State.setI_latch (a : Addr) : (s.setI a).latch = s.latch := rfl
@[simp] theorem State.setI_plane0 (a : Addr) : (s.setI a).plane0 = s.plane0 := rfl
@[simp] theorem State.setI_plane1 (a : Addr) : (s.setI a).plane1 = s.plane1 := rfl
@[simp] theorem State.setI_mode (a : Addr) : (s.setI a).mode = s.mode := rfl
@[simp] theorem State.setI_pmask (a : Addr) : (s.setI a).pmask = s.pmask := rfl
@[simp] theorem State.setI_pattern (a : Addr) : (s.setI a).pattern = s.pattern := rfl
@[simp] theorem State.setI_pitch (a : Addr) : (s.setI a).pitch = s.pitch := rfl
@[simp] theorem State.setI_mem (a : Addr) : (s.setI a).mem = s.mem := rfl
@[simp] theorem State.setI_flags (a : Addr) : (s.setI a).flags = s.flags := rfl
@[simp] theorem State.setI_executed (a : Addr) : (s.setI a).executed = s.executed := rfl
@[simp] theorem State.setI_drawsInBatch (a : Addr) : (s.setI a).drawsInBatch = s.drawsInBatch := rfl
@[simp] theorem State.setI_events (a : Addr) : (s.setI a).events = s.events := rfl
@[simp] theorem State.setI_fatal (a : Addr) : (s.setI a).fatal = s.fatal := rfl
@[simp] theorem State.setI_dialect (a : Addr) : (s.setI a).dialect = s.dialect := rfl
@[simp] theorem State.setI_quirks (a : Addr) : (s.setI a).quirks = s.quirks := rfl
@[simp] theorem State.setI_ipsBase (a : Addr) : (s.setI a).ipsBase = s.ipsBase := rfl
@[simp] theorem State.setI_params (a : Addr) : (s.setI a).params = s.params := rfl
@[simp] theorem State.setI_randDraws (a : Addr) : (s.setI a).randDraws = s.randDraws := rfl
@[simp] theorem State.setI_batchLeft (a : Addr) : (s.setI a).batchLeft = s.batchLeft := rfl
@[simp] theorem State.setI_outcome (a : Addr) : (s.setI a).outcome = s.outcome := rfl
@[simp] theorem State.setI_inputs (a : Addr) : (s.setI a).inputs = s.inputs := rfl

/-! ### `setPc` -/

@[simp] theorem State.setPc_v (a : Addr) : (s.setPc a).v = s.v := rfl
@[simp] theorem State.setPc_i (a : Addr) : (s.setPc a).i = s.i := rfl
@[simp] theorem State.setPc_pc (a : Addr) : (s.setPc a).pc = a := rfl
@[simp] theorem State.setPc_stack (a : Addr) : (s.setPc a).stack = s.stack := rfl
@[simp] theorem State.setPc_dt (a : Addr) : (s.setPc a).dt = s.dt := rfl
@[simp] theorem State.setPc_st (a : Addr) : (s.setPc a).st = s.st := rfl
@[simp] theorem State.setPc_down (a : Addr) : (s.setPc a).down = s.down := rfl
@[simp] theorem State.setPc_ktick (a : Addr) : (s.setPc a).ktick = s.ktick := rfl
@[simp] theorem State.setPc_latch (a : Addr) : (s.setPc a).latch = s.latch := rfl
@[simp] theorem State.setPc_plane0 (a : Addr) : (s.setPc a).plane0 = s.plane0 := rfl
@[simp] theorem State.setPc_plane1 (a : Addr) : (s.setPc a).plane1 = s.plane1 := rfl
@[simp] theorem State.setPc_mode (a : Addr) : (s.setPc a).mode = s.mode := rfl
@[simp] theorem State.setPc_pmask (a : Addr) : (s.setPc a).pmask = s.pmask := rfl
@[simp] theorem State.setPc_pattern (a : Addr) : (s.setPc a).pattern = s.pattern := rfl
@[simp] theorem State.setPc_pitch (a : Addr) : (s.setPc a).pitch = s.pitch := rfl
@[simp] theorem State.setPc_mem (a : Addr) : (s.setPc a).mem = s.mem := rfl
@[simp] theorem State.setPc_flags (a : Addr) : (s.setPc a).flags = s.flags := rfl
@[simp] theorem State.setPc_executed (a : Addr) : (s.setPc a).executed = s.executed := rfl
@[simp] theorem State.setPc_drawsInBatch (a : Addr) : (s.setPc a).drawsInBatch = s.drawsInBatch := rfl
@[simp] theorem State.setPc_events (a : Addr) : (s.setPc a).events = s.events := rfl
@[simp] theorem State.setPc_fatal (a : Addr) : (s.setPc a).fatal = s.fatal := rfl
@[simp] theorem State.setPc_dialect (a : Addr) : (s.setPc a).dialect = s.dialect := rfl
@[simp] theorem State.setPc_quirks (a : Addr) : (s.setPc a).quirks = s.quirks := rfl
@[simp] theorem State.setPc_ipsBase (a : Addr) : (s.setPc a).ipsBase = s.ipsBase := rfl
@[simp] theorem State.setPc_params (a : Addr) : (s.setPc a).params = s.params := rfl
@[simp] theorem State.setPc_randDraws (a : Addr) : (s.setPc a).randDraws = s.randDraws := rfl
@[simp] theorem State.setPc_batchLeft (a : Addr) : (s.setPc a).batchLeft = s.batchLeft := rfl
@[simp] theorem State.setPc_outcome (a : Addr) : (s.setPc a).outcome = s.outcome := rfl
@[simp] theorem State.setPc_inputs (a : Addr) : (s.setPc a).inputs = s.inputs := rfl

/-! ### `advance` -/

@[simp] theorem State.advance_v : (s.advance).v = s.v := rfl
@[simp] theorem State.advance_i : (s.advance).i = s.i := rfl
@[simp] theorem State.advance_pc : (s.advance).pc = s.pc + 2#16 := rfl
@[simp] theorem State.advance_stack : (s.advance).stack = s.stack := rfl
@[simp] theorem State.advance_dt : (s.advance).dt = s.dt := rfl
@[simp] theorem State.advance_st : (s.advance).st = s.st := rfl
@[simp] theorem State.advance_down : (s.advance).down = s.down := rfl
@[simp] theorem State.advance_ktick : (s.advance).ktick = s.ktick := rfl
@[simp] theorem State.advance_latch : (s.advance).latch = s.latch := rfl
@[simp] theorem State.advance_plane0 : (s.advance).plane0 = s.plane0 := rfl
@[simp] theorem State.advance_plane1 : (s.advance).plane1 = s.plane1 := rfl
@[simp] theorem State.advance_mode : (s.advance).mode = s.mode := rfl
@[simp] theorem State.advance_pmask : (s.advance).pmask = s.pmask := rfl
@[simp] theorem State.advance_pattern : (s.advance).pattern = s.pattern := rfl
@[simp] theorem State.advance_pitch : (s.advance).pitch = s.pitch := rfl
@[simp] theorem State.advance_mem : (s.advance).mem = s.mem := rfl
@[simp] theorem State.advance_flags : (s.advance).flags = s.flags := rfl
@[simp] theorem State.advance_executed : (s.advance).executed = s.executed := rfl
@[simp] theorem State.advance_drawsInBatch : (s.advance).drawsInBatch = s.drawsInBatch := rfl
@[simp] theorem State.advance_events : (s.advance).events = s.events := rfl
@[simp] theorem State.advance_fatal : (s.advance).fatal = s.fatal := rfl
@[simp] theorem State.advance_dialect : (s.advance).dialect = s.dialect := rfl
@[simp] theorem State.advance_quirks : (s.advance).quirks = s.quirks := rfl
@[simp] theorem State.advance_ipsBase : (s.advance).ipsBase = s.ipsBase := rfl
@[simp] theorem State.advance_params : (s.advance).params = s.params := rfl
@[simp] theorem State.advance_randDraws : (s.advance).randDraws = s.randDraws := rfl
@[simp] theorem State.advance_batchLeft : (s.advance).batchLeft = s.batchLeft := rfl
@[simp] theorem State.advance_outcome : (s.advance).outcome = s.outcome := rfl
@[simp] theorem State.advance_inputs : (s.advance).inputs = s.inputs := rfl

/-! ### `skipIf` -/

@[simp] theorem State.skipIf_v (b : Bool) : (s.skipIf b).v = s.v := rfl
@[simp] theorem State.skipIf_i (b : Bool) : (s.skipIf b).i = s.i := rfl
@[simp] theorem State.skipIf_pc (b : Bool) : (s.skipIf b).pc = if b then s.pc + 4#16 else s.pc + 2#16 := rfl
@[simp] theorem State.skipIf_stack (b : Bool) : (s.skipIf b).stack = s.stack := rfl
@[simp] theorem State.skipIf_dt (b : Bool) : (s.skipIf b).dt = s.dt := rfl
@[simp] theorem State.skipIf_st (b : Bool) : (s.skipIf b).st = s.st := rfl
@[simp] theorem State.skipIf_down (b : Bool) : (s.skipIf b).down = s.down := rfl
@[simp] theorem State.skipIf_ktick (b : Bool) : (s.skipIf b).ktick = s.ktick := rfl
@[simp] theorem State.skipIf_latch (b : Bool) : (s.skipIf b).latch = s.latch := rfl
@[simp] theorem State.skipIf_plane0 (b : Bool) : (s.skipIf b).plane0 = s.plane0 := rfl
@[simp] theorem State.skipIf_plane1 (b : Bool) : (s.skipIf b).plane1 = s.plane1 := rfl
@[simp] theorem State.skipIf_mode (b : Bool) : (s.skipIf b).mode = s.mode := rfl
@[simp] theorem State.skipIf_pmask (b : Bool) : (s.skipIf b).pmask = s.pmask := rfl
@[simp] theorem State.skipIf_pattern (b : Bool) : (s.skipIf b).pattern = s.pattern := rfl
@[simp] theorem State.skipIf_pitch (b : Bool) : (s.skipIf b).pitch = s.pitch := rfl
@[simp] theorem State.skipIf_mem (b : Bool) : (s.skipIf b).mem = s.mem := rfl
@[simp] theorem State.skipIf_flags (b : Bool) : (s.skipIf b).flags = s.flags := rfl
@[simp] theorem State.skipIf_executed (b : Bool) : (s.skipIf b).executed = s.executed := rfl
@[simp] theorem State.skipIf_drawsInBatch (b : Bool) : (s.skipIf b).drawsInBatch = s.drawsInBatch := rfl
@[simp] theorem State.skipIf_events (b : Bool) : (s.skipIf b).events = s.events := rfl
@[simp] theorem State.skipIf_fatal (b : Bool) : (s.skipIf b).fatal = s.fatal := rfl
@[simp] theorem State.skipIf_dialect (b : Bool) : (s.skipIf b).dialect = s.dialect := rfl
@[simp] theorem State.skipIf_quirks (b : Bool) : (s.skipIf b).quirks = s.quirks := rfl
@[simp] theorem State.skipIf_ipsBase (b : Bool) : (s.skipIf b).ipsBase = s.ipsBase := rfl
@[simp] theorem State.skipIf_params (b : Bool) : (s.skipIf b).params = s.params := rfl
@[simp] theorem State.skipIf_randDraws (b : Bool) : (s.skipIf b).randDraws = s.randDraws := rfl
@[simp] theorem State.skipIf_batchLeft (b : Bool) : (s.skipIf b).batchLeft = s.batchLeft := rfl
@[simp] theorem State.skipIf_outcome (b : Bool) : (s.skipIf b).outcome = s.outcome := rfl
@[simp] theorem State.skipIf_inputs (b : Bool) : (s.skipIf b).inputs = s.inputs := rfl

/-! ### `emit` -/

@[simp] theorem State.emit_v (e : Event) : (s.emit e).v = s.v := rfl
@[simp] theorem State.emit_i (e : Event) : (s.emit e).i = s.i := rfl
@[simp] theorem State.emit_pc (e : Event) : (s.emit e).pc = s.pc := rfl
@[simp] theorem State.emit_stack (e : Event) : (s.emit e).stack = s.stack := rfl
@[simp] theorem State.emit_dt (e : Event) : (s.emit e).dt = s.dt := rfl
@[simp] theorem State.emit_st (e : Event) : (s.emit e).st = s.st := rfl
@[simp] theorem State.emit_down (e : Event) : (s.emit e).down = s.down := rfl
@[simp] theorem State.emit_ktick (e : Event) : (s.emit e).ktick = s.ktick := rfl
@[simp] theorem State.emit_latch (e : Event) : (s.emit e).latch = s.latch := rfl
@[simp] theorem State.emit_plane0 (e : Event) : (s.emit e).plane0 = s.plane0 := rfl
@[simp] theorem State.emit_plane1 (e : Event) : (s.emit e).plane1 = s.plane1 := rfl
@[simp] theorem State.emit_mode (e : Event) : (s.emit e).mode = s.mode := rfl
@[simp] theorem State.emit_pmask (e : Event) : (s.emit e).pmask = s.pmask := rfl
@[simp] theorem State.emit_pattern (e : Event) : (s.emit e).pattern = s.pattern := rfl
@[simp] theorem State.emit_pitch (e : Event) : (s.emit e).pitch = s.pitch := rfl
@[simp] theorem State.emit_mem (e : Event) : (s.emit e).mem = s.mem := rfl
@[simp] theorem State.emit_flags (e : Event) : (s.emit e).flags = s.flags := rfl
@[simp] theorem State.emit_executed (e : Event) : (s.emit e).executed = s.executed := rfl
@[simp] theorem State.emit_drawsInBatch (e : Event) : (s.emit e).drawsInBatch = s.drawsInBatch := rfl
@[simp] theorem State.emit_events (e : Event) : (s.emit e).events = s.events ++ [e] := rfl
@[simp] theorem State.emit_fatal (e : Event) : (s.emit e).fatal = s.fatal := rfl
@[simp] theorem State.emit_dialect (e : Event) : (s.emit e).dialect = s.dialect := rfl
@[simp] theorem State.emit_quirks (e : Event) : (s.emit e).quirks = s.quirks := rfl
@[simp] theorem State.emit_ipsBase (e : Event) : (s.emit e).ipsBase = s.ipsBase := rfl
@[simp] theorem State.emit_params (e : Event) : (s.emit e).params = s.params := rfl
@[simp] theorem State.emit_randDraws (e : Event) : (s.emit e).randDraws = s.randDraws := rfl
@[simp] theorem State.emit_batchLeft (e : Event) : (s.emit e).batchLeft = s.batchLeft := rfl
@[simp] theorem State.emit_outcome (e : Event) : (s.emit e).outcome = s.outcome := rfl
@[simp] theorem State.emit_inputs (e : Event) : (s.emit e).inputs = s.inputs := rfl

/-! ### `emitAudio` -/

@[simp] theorem State.emitAudio_v : (s.emitAudio).v = s.v := rfl
@[simp] theorem State.emitAudio_i : (s.emitAudio).i = s.i := rfl
@[simp] theorem State.emitAudio_pc : (s.emitAudio).pc = s.pc := rfl
@[simp] theorem State.emitAudio_stack : (s.emitAudio).stack = s.stack := rfl
@[simp] theorem State.emitAudio_dt : (s.emitAudio).dt = s.dt := rfl
@[simp] theorem State.emitAudio_st : (s.emitAudio).st = s.st := rfl
@[simp] theorem State.emitAudio_down : (s.emitAudio).down = s.down := rfl
@[simp] theorem State.emitAudio_ktick : (s.emitAudio).ktick = s.ktick := rfl
@[simp] theorem State.emitAudio_latch : (s.emitAudio).latch = s.latch := rfl
@[simp] theorem State.emitAudio_plane0 : (s.emitAudio).plane0 = s.plane0 := rfl
@[simp] theorem State.emitAudio_plane1 : (s.emitAudio).plane1 = s.plane1 := rfl
@[simp] theorem State.emitAudio_mode : (s.emitAudio).mode = s.mode := rfl
@[simp] theorem State.emitAudio_pmask : (s.emitAudio).pmask = s.pmask := rfl
@[simp] theorem State.emitAudio_pattern : (s.emitAudio).pattern = s.pattern := rfl
@[simp] theorem State.emitAudio_pitch : (s.emitAudio).pitch = s.pitch := rfl
@[simp] theorem State.emitAudio_mem : (s.emitAudio).mem = s.mem := rfl
@[simp] theorem State.emitAudio_flags : (s.emitAudio).flags = s.flags := rfl
@[simp] theorem State.emitAudio_executed : (s.emitAudio).executed = s.executed := rfl
@[simp] theorem State.emitAudio_drawsInBatch : (s.emitAudio).drawsInBatch = s.drawsInBatch := rfl
@[simp] theorem State.emitAudio_events : (s.emitAudio).events = s.events ++ [.audioUpdated (frequency s.pitch) s.pattern] := rfl
@[simp] theorem State.emitAudio_fatal : (s.emitAudio).fatal = s.fatal := rfl
@[simp] theorem State.emitAudio_dialect : (s.emitAudio).dialect = s.dialect := rfl
@[simp] theorem State.emitAudio_quirks : (s.emitAudio).quirks = s.quirks := rfl
@[simp] theorem State.emitAudio_ipsBase : (s.emitAudio).ipsBase = s.ipsBase := rfl
@[simp] theorem State.emitAudio_params : (s.emitAudio).params = s.params := rfl
@[simp] theorem State.emitAudio_randDraws : (s.emitAudio).randDraws = s.randDraws := rfl
@[simp] theorem State.emitAudio_batchLeft : (s.emitAudio).batchLeft = s.batchLeft := rfl
@[simp] theorem State.emitAudio_outcome : (s.emitAudio).outcome = s.outcome := rfl
@[simp] theorem State.emitAudio_inputs : (s.emitAudio).inputs = s.inputs := rfl

/-! ### `retire` -/

@[simp] theorem State.retire_v : (s.retire).v = s.v := rfl
@[simp] theorem State.retire_i : (s.retire).i = s.i := rfl
@[simp] theorem State.retire_pc : (s.retire).pc = s.pc := rfl
@[simp] theorem State.retire_stack : (s.retire).stack = s.stack := rfl
@[simp] theorem State.retire_dt : (s.retire).dt = s.dt := rfl
@[simp] theorem State.retire_st : (s.retire).st = s.st := rfl
@[simp] theorem State.retire_down : (s.retire).down = s.down := rfl
@[simp] theorem State.retire_ktick : (s.retire).ktick = s.ktick := rfl
@[simp] theorem State.retire_latch : (s.retire).latch = s.latch := rfl
@[simp] theorem State.retire_plane0 : (s.retire).plane0 = s.plane0 := rfl
@[simp] theorem State.retire_plane1 : (s.retire).plane1 = s.plane1 := rfl
@[simp] theorem State.retire_mode : (s.retire).mode = s.mode := rfl
@[simp] theorem State.retire_pmask : (s.retire).pmask = s.pmask := rfl
@[simp] theorem State.retire_pattern : (s.retire).pattern = s.pattern := rfl
@[simp] theorem State.retire_pitch : (s.retire).pitch = s.pitch := rfl
@[simp] theorem State.retire_mem : (s.retire).mem = s.mem := rfl
@[simp] theorem State.retire_flags : (s.retire).flags = s.flags := rfl
@[simp] theorem State.retire_executed : (s.retire).executed = s.executed + 1 := rfl
@[simp] theorem State.retire_drawsInBatch : (s.retire).drawsInBatch = s.drawsInBatch := rfl
@[simp] theorem State.retire_events : (s.retire).events = s.events := rfl
@[simp] theorem State.retire_fatal : (s.retire).fatal = s.fatal := rfl
@[simp] theorem State.retire_dialect : (s.retire).dialect = s.dialect := rfl
@[simp] theorem State.retire_quirks : (s.retire).quirks = s.quirks := rfl
@[simp] theorem State.retire_ipsBase : (s.retire).ipsBase = s.ipsBase := rfl
@[simp] theorem State.retire_params : (s.retire).params = s.params := rfl
@[simp] theorem State.retire_randDraws : (s.retire).randDraws = s.randDraws := rfl
@[simp] theorem State.retire_batchLeft : (s.retire).batchLeft = s.batchLeft - 1 := rfl
@[simp] theorem State.retire_outcome : (s.retire).outcome = if s.batchLeft ≤ 1 then some .success else s.outcome := rfl
@[simp] theorem State.retire_inputs : (s.retire).inputs = s.inputs := rfl

/-! ### `stop` -/

@[simp] theorem State.stop_v (o : StepOutcome) : (s.stop o).v = s.v := rfl
@[simp] theorem State.stop_i (o : StepOutcome) : (s.stop o).i = s.i := rfl
@[simp] theorem State.stop_pc (o : StepOutcome) : (s.stop o).pc = s.pc := rfl
@[simp] theorem State.stop_stack (o : StepOutcome) : (s.stop o).stack = s.stack := rfl
@[simp] theorem State.stop_dt (o : StepOutcome) : (s.stop o).dt = s.dt := rfl
@[simp] theorem State.stop_st (o : StepOutcome) : (s.stop o).st = s.st := rfl
@[simp] theorem State.stop_down (o : StepOutcome) : (s.stop o).down = s.down := rfl
@[simp] theorem State.stop_ktick (o : StepOutcome) : (s.stop o).ktick = s.ktick := rfl
@[simp] theorem State.stop_latch (o : StepOutcome) : (s.stop o).latch = s.latch := rfl
@[simp] theorem State.stop_plane0 (o : StepOutcome) : (s.stop o).plane0 = s.plane0 := rfl
@[simp] theorem State.stop_plane1 (o : StepOutcome) : (s.stop o).plane1 = s.plane1 := rfl
@[simp] theorem State.stop_mode (o : StepOutcome) : (s.stop o).mode = s.mode := rfl
@[simp] theorem State.stop_pmask (o : StepOutcome) : (s.stop o).pmask = s.pmask := rfl
@[simp] theorem State.stop_pattern (o : StepOutcome) : (s.stop o).pattern = s.pattern := rfl
@[simp] theorem State.stop_pitch (o : StepOutcome) : (s.stop o).pitch = s.pitch := rfl
@[simp] theorem State.stop_mem (o : StepOutcome) : (s.stop o).mem = s.mem := rfl
@[simp] theorem State.stop_flags (o : StepOutcome) : (s.stop o).flags = s.flags := rfl
@[simp] theorem State.stop_executed (o : StepOutcome) : (s.stop o).executed = s.executed := rfl
@[simp] theorem State.stop_drawsInBatch (o : StepOutcome) : (s.stop o).drawsInBatch = s.drawsInBatch := rfl
@[simp] theorem State.stop_events (o : StepOutcome) : (s.stop o).events = s.events := rfl
@[simp] theorem State.stop_fatal (o : StepOutcome) : (s.stop o).fatal = s.fatal := rfl
@[simp] theorem State.stop_dialect (o : StepOutcome) : (s.stop o).dialect = s.dialect := rfl
@[simp] theorem State.stop_quirks (o : StepOutcome) : (s.stop o).quirks = s.quirks := rfl
@[simp] theorem State.stop_ipsBase (o : StepOutcome) : (s.stop o).ipsBase = s.ipsBase := rfl
@[simp] theorem State.stop_params (o : StepOutcome) : (s.stop o).params = s.params := rfl
@[simp] theorem State.stop_randDraws (o : StepOutcome) : (s.stop o).randDraws = s.randDraws := rfl
@[simp] theorem State.stop_batchLeft (o : StepOutcome) : (s.stop o).batchLeft = 0 := rfl
@[simp] theorem State.stop_outcome (o : StepOutcome) : (s.stop o).outcome = some o := rfl
@[simp] theorem State.stop_inputs (o : StepOutcome) : (s.stop o).inputs = s.inputs := rfl

/-! ### `raise` -/

@[simp] theorem State.raise_v (e : FatalError) : (s.raise e).v = s.v := rfl
@[simp] theorem State.raise_i (e : FatalError) : (s.raise e).i = s.i := rfl
@[simp] theorem State.raise_pc (e : FatalError) : (s.raise e).pc = s.pc := rfl
@[simp] theorem State.raise_stack (e : FatalError) : (s.raise e).stack = s.stack := rfl
@[simp] theorem State.raise_dt (e : FatalError) : (s.raise e).dt = s.dt := rfl
@[simp] theorem State.raise_st (e : FatalError) : (s.raise e).st = s.st := rfl
@[simp] theorem State.raise_down (e : FatalError) : (s.raise e).down = s.down := rfl
@[simp] theorem State.raise_ktick (e : FatalError) : (s.raise e).ktick = s.ktick := rfl
@[simp] theorem State.raise_latch (e : FatalError) : (s.raise e).latch = s.latch := rfl
@[simp] theorem State.raise_plane0 (e : FatalError) : (s.raise e).plane0 = s.plane0 := rfl
@[simp] theorem State.raise_plane1 (e : FatalError) : (s.raise e).plane1 = s.plane1 := rfl
@[simp] theorem State.raise_mode (e : FatalError) : (s.raise e).mode = s.mode := rfl
@[simp] theorem State.raise_pmask (e : FatalError) : (s.raise e).pmask = s.pmask := rfl
@[simp] theorem State.raise_pattern (e : FatalError) : (s.raise e).pattern = s.pattern := rfl
@[simp] theorem State.raise_pitch (e : FatalError) : (s.raise e).pitch = s.pitch := rfl
@[simp] theorem State.raise_mem (e : FatalError) : (s.raise e).mem = s.mem := rfl
@[simp] theorem State.raise_flags (e : FatalError) : (s.raise e).flags = s.flags := rfl
@[simp] theorem State.raise_executed (e : FatalError) : (s.raise e).executed = s.executed := rfl
@[simp] theorem State.raise_drawsInBatch (e : FatalError) : (s.raise e).drawsInBatch = s.drawsInBatch := rfl
@[simp] theorem State.raise_events (e : FatalError) : (s.raise e).events = s.events := rfl
@[simp] theorem State.raise_fatal (e : FatalError) : (s.raise e).fatal = some e := rfl
@[simp] theorem State.raise_dialect (e : FatalError) : (s.raise e).dialect = s.dialect := rfl
@[simp] theorem State.raise_quirks (e : FatalError) : (s.raise e).quirks = s.quirks := rfl
@[simp] theorem State.raise_ipsBase (e : FatalError) : (s.raise e).ipsBase = s.ipsBase := rfl
@[simp] theorem State.raise_params (e : FatalError) : (s.raise e).params = s.params := rfl
@[simp] theorem State.raise_randDraws (e : FatalError) : (s.raise e).randDraws = s.randDraws := rfl
@[simp] theorem State.raise_batchLeft (e : FatalError) : (s.raise e).batchLeft = 0 := rfl
@[simp] theorem State.raise_outcome (e : FatalError) : (s.raise e).outcome = none := rfl
@[simp] theorem State.raise_inputs (e : FatalError) : (s.raise e).inputs = s.inputs := rfl

/-! ### `onTargets` -/

@[simp] theorem State.onTargets_v (f : Plane → Plane) : (s.onTargets f).v = s.v := rfl
@[simp] theorem State.onTargets_i (f : Plane → Plane) : (s.onTargets f).i = s.i := rfl
@[simp] theorem State.onTargets_pc (f : Plane → Plane) : (s.onTargets f).pc = s.pc := rfl
@[simp] theorem State.onTargets_stack (f : Plane → Plane) : (s.onTargets f).stack = s.stack := rfl
@[simp] theorem State.onTargets_dt (f : Plane → Plane) : (s.onTargets f).dt = s.dt := rfl
@[simp] theorem State.onTargets_st (f : Plane → Plane) : (s.onTargets f).st = s.st := rfl
@[simp] theorem State.onTargets_down (f : Plane → Plane) : (s.onTargets f).down = s.down := rfl
@[simp] theorem State.onTargets_ktick (f : Plane → Plane) : (s.onTargets f).ktick = s.ktick := rfl
@[simp] theorem State.onTargets_latch (f : Plane → Plane) : (s.onTargets f).latch = s.latch := rfl
@[simp] theorem State.onTargets_plane0 (f : Plane → Plane) : (s.onTargets f).plane0 = if s.pmask.getLsbD 0 then f s.plane0 else s.plane0 := rfl
@[simp] theorem State.onTargets_plane1 (f : Plane → Plane) : (s.onTargets f).plane1 = if s.pmask.getLsbD 1 then f s.plane1 else s.plane1 := rfl
@[simp] theorem State.onTargets_mode (f : Plane → Plane) : (s.onTargets f).mode = s.mode := rfl
@[simp] theorem State.onTargets_pmask (f : Plane → Plane) : (s.onTargets f).pmask = s.pmask := rfl
@[simp] theorem State.onTargets_pattern (f : Plane → Plane) : (s.onTargets f).pattern = s.pattern := rfl
@[simp] theorem State.onTargets_pitch (f : Plane → Plane) : (s.onTargets f).pitch = s.pitch := rfl
@[simp] theorem State.onTargets_mem (f : Plane → Plane) : (s.onTargets f).mem = s.mem := rfl
@[simp] theorem State.onTargets_flags (f : Plane → Plane) : (s.onTargets f).flags = s.flags := rfl
@[simp] theorem State.onTargets_executed (f : Plane → Plane) : (s.onTargets f).executed = s.executed := rfl
@[simp] theorem State.onTargets_drawsInBatch (f : Plane → Plane) : (s.onTargets f).drawsInBatch = s.drawsInBatch := rfl
@[simp] theorem State.onTargets_events (f : Plane → Plane) : (s.onTargets f).events = s.events := rfl
@[simp] theorem State.onTargets_fatal (f : Plane → Plane) : (s.onTargets f).fatal = s.fatal := rfl
@[simp] theorem State.onTargets_dialect (f : Plane → Plane) : (s.onTargets f).dialect = s.dialect := rfl
@[simp] theorem State.onTargets_quirks (f : Plane → Plane) : (s.onTargets f).quirks = s.quirks := rfl
@[simp] theorem State.onTargets_ipsBase (f : Plane → Plane) : (s.onTargets f).ipsBase = s.ipsBase := rfl
@[simp] theorem State.onTargets_params (f : Plane → Plane) : (s.onTargets f).params = s.params := rfl
@[simp] theorem State.onTargets_randDraws (f : Plane → Plane) : (s.onTargets f).randDraws = s.randDraws := rfl
@[simp] theorem State.onTargets_batchLeft (f : Plane → Plane) : (s.onTargets f).batchLeft = s.batchLeft := rfl
@[simp] theorem State.onTargets_outcome (f : Plane → Plane) : (s.onTargets f).outcome = s.outcome := rfl
@[simp] theorem State.onTargets_inputs (f : Plane → Plane) : (s.onTargets f).inputs = s.inputs := rfl

/-! ### `bumpI` -/

@[simp] theorem State.bumpI_v (n : Nat) : (s.bumpI n).v = s.v := by
  unfold State.bumpI; split <;> rfl
@[simp] theorem State.bumpI_i (n : Nat) : (s.bumpI n).i = if s.quirks.indexIncrement then s.i + BitVec.ofNat 16 n else s.i := by
  unfold State.bumpI; split <;> rfl
@[simp] theorem State.bumpI_pc (n : Nat) : (s.bumpI n).pc = s.pc := by
  unfold State.bumpI; split <;> rfl
@[simp] theorem State.bumpI_stack (n : Nat) : (s.bumpI n).stack = s.stack := by
  unfold State.bumpI; split <;> rfl
@[simp] theorem State.bumpI_dt (n : Nat) : (s.bumpI n).dt = s.dt := by
  unfold State.bumpI; split <;> rfl
@[simp] theorem State.bumpI_st (n : Nat) : (s.bumpI n).st = s.st := by
  unfold State.bumpI; split <;> rfl
@[simp] theorem State.bumpI_down (n : Nat) : (s.bumpI n).down = s.down := by
  unfold State.bumpI; split <;> rfl
@[simp] theorem State.bumpI_ktick (n : Nat) : (s.bumpI n).ktick = s.ktick := by
  unfold State.bumpI; split <;> rfl
@[simp] theorem State.bumpI_latch (n : Nat) : (s.bumpI n).latch = s.latch := by
  unfold State.bumpI; split <;> rfl
@[simp] theorem State.bumpI_plane0 (n : Nat) : (s.bumpI n).plane0 = s.plane0 := by
  unfold State.bumpI; split <;> rfl
@[simp] theorem State.bumpI_plane1 (n : Nat) : (s.bumpI n).plane1 = s.plane1 := by
  unfold State.bumpI; split <;> rfl
@[simp] theorem State.bumpI_mode (n : Nat) : (s.bumpI n).mode = s.mode := by
  unfold State.bumpI; split <;> rfl
@[simp] theorem State.bumpI_pmask (n : Nat) : (s.bumpI n).pmask = s.pmask := by
  unfold State.bumpI; split <;> rfl
@[simp] theorem State.bumpI_pattern (n : Nat) : (s.bumpI n).pattern = s.pattern := by
  unfold State.bumpI; split <;> rfl
@[simp] theorem State.bumpI_pitch (n : Nat) : (s.bumpI n).pitch = s.pitch := by
  unfold State.bumpI; split <;> rfl
@[simp] theorem State.bumpI_mem (n : Nat) : (s.bumpI n).mem = s.mem := by
  unfold State.bumpI; split <;> rfl
@[simp] theorem State.bumpI_flags (n : Nat) : (s.bumpI n).flags = s.flags := by
  unfold State.bumpI; split <;> rfl
@[simp] theorem State.bumpI_executed (n : Nat) : (s.bumpI n).executed = s.executed := by
  unfold State.bumpI; split <;> rfl
@[simp] theorem State.bumpI_drawsInBatch (n : Nat) : (s.bumpI n).drawsInBatch = s.drawsInBatch := by
  unfold State.bumpI; split <;> rfl
@[simp] theorem State.bumpI_events (n : Nat) : (s.bumpI n).events = s.events := by
  unfold State.bumpI; split <;> rfl
@[simp] theorem State.bumpI_fatal (n : Nat) : (s.bumpI n).fatal = s.fatal := by
  unfold State.bumpI; split <;> rfl
@[simp] theorem State.bumpI_dialect (n : Nat) : (s.bumpI n).dialect = s.dialect := by
  unfold State.bumpI; split <;> rfl
@[simp] theorem State.bumpI_quirks (n : Nat) : (s.bumpI n).quirks = s.quirks := by
  unfold State.bumpI; split <;> rfl
@[simp] theorem State.bumpI_ipsBase (n : Nat) : (s.bumpI n).ipsBase = s.ipsBase := by
  unfold State.bumpI; split <;> rfl
@[simp] theorem State.bumpI_params (n : Nat) : (s.bumpI n).params = s.params := by
  unfold State.bumpI; split <;> rfl
@[simp] theorem State.bumpI_randDraws (n : Nat) : (s.bumpI n).randDraws = s.randDraws := by
  unfold State.bumpI; split <;> rfl
@[simp] theorem State.bumpI_batchLeft (n : Nat) : (s.bumpI n).batchLeft = s.batchLeft := by
  unfold State.bumpI; split <;> rfl
@[simp] theorem State.bumpI_outcome (n : Nat) : (s.bumpI n).outcome = s.outcome := by
  unfold State.bumpI; split <;> rfl
@[simp] theorem State.bumpI_inputs (n : Nat) : (s.bumpI n).inputs = s.inputs := by
  unfold State.bumpI; split <;> rfl

/-! ### `setBitwise` -/

@[simp] theorem State.setBitwise_i (x : RegIdx) (b : Byte) : (s.setBitwise x b).i = s.i := by
  unfold State.setBitwise; split <;> rfl
@[simp] theorem State.setBitwise_pc (x : RegIdx) (b : Byte) : (s.setBitwise x b).pc = s.pc := by
  unfold State.setBitwise; split <;> rfl
@[simp] theorem State.setBitwise_stack (x : RegIdx) (b : Byte) : (s.setBitwise x b).stack = s.stack := by
  unfold State.setBitwise; split <;> rfl
@[simp] theorem State.setBitwise_dt (x : RegIdx) (b : Byte) : (s.setBitwise x b).dt = s.dt := by
  unfold State.setBitwise; split <;> rfl
@[simp] theorem State.setBitwise_st (x : RegIdx) (b : Byte) : (s.setBitwise x b).st = s.st := by
  unfold State.setBitwise; split <;> rfl
@[simp] theorem State.setBitwise_down (x : RegIdx) (b : Byte) : (s.setBitwise x b).down = s.down := by
  unfold State.setBitwise; split <;> rfl
@[simp] theorem State.setBitwise_ktick (x : RegIdx) (b : Byte) : (s.setBitwise x b).ktick = s.ktick := by
  unfold State.setBitwise; split <;> rfl
@[simp] theorem State.setBitwise_latch (x : RegIdx) (b : Byte) : (s.setBitwise x b).latch = s.latch := by
  unfold State.setBitwise; split <;> rfl
@[simp] theorem State.setBitwise_plane0 (x : RegIdx) (b : Byte) : (s.setBitwise x b).plane0 = s.plane0 := by
  unfold State.setBitwise; split <;> rfl
@[simp] theorem State.setBitwise_plane1 (x : RegIdx) (b : Byte) : (s.setBitwise x b).plane1 = s.plane1 := by
  unfold State.setBitwise; split <;> rfl
@[simp] theorem State.setBitwise_mode (x : RegIdx) (b : Byte) : (s.setBitwise x b).mode = s.mode := by
  unfold State.setBitwise; split <;> rfl
@[simp] theorem State.setBitwise_pmask (x : RegIdx) (b : Byte) : (s.setBitwise x b).pmask = s.pmask := by
  unfold State.setBitwise; split <;> rfl
@[simp] theorem State.setBitwise_pattern (x : RegIdx) (b : Byte) : (s.setBitwise x b).pattern = s.pattern := by
  unfold State.setBitwise; split <;> rfl
@[simp] theorem State.setBitwise_pitch (x : RegIdx) (b : Byte) : (s.setBitwise x b).pitch = s.pitch := by
  unfold State.setBitwise; split <;> rfl
@[simp] theorem State.setBitwise_mem (x : RegIdx) (b : Byte) : (s.setBitwise x b).mem = s.mem := by
  unfold State.setBitwise; split <;> rfl
@[simp] theorem State.setBitwise_flags (x : RegIdx) (b : Byte) : (s.setBitwise x b).flags = s.flags := by
  unfold State.setBitwise; split <;> rfl
@[simp] theorem State.setBitwise_executed (x : RegIdx) (b : Byte) : (s.setBitwise x b).executed = s.executed := by
  unfold State.setBitwise; split <;> rfl
@[simp] theorem State.setBitwise_drawsInBatch (x : RegIdx) (b : Byte) : (s.setBitwise x b).drawsInBatch = s.drawsInBatch := by
  unfold State.setBitwise; split <;> rfl
@[simp] theorem State.setBitwise_events (x : RegIdx) (b : Byte) : (s.setBitwise x b).events = s.events := by
  unfold State.setBitwise; split <;> rfl
@[simp] theorem State.setBitwise_fatal (x : RegIdx) (b : Byte) : (s.setBitwise x b).fatal = s.fatal := by
  unfold State.setBitwise; split <;> rfl
@[simp] theorem State.setBitwise_dialect (x : RegIdx) (b : Byte) : (s.setBitwise x b).dialect = s.dialect := by
  unfold State.setBitwise; split <;> rfl
@[simp] theorem State.setBitwise_quirks (x : RegIdx) (b : Byte) : (s.setBitwise x b).quirks = s.quirks := by
  unfold State.setBitwise; split <;> rfl
@[simp] theorem State.setBitwise_ipsBase (x : RegIdx) (b : Byte) : (s.setBitwise x b).ipsBase = s.ipsBase := by
  unfold State.setBitwise; split <;> rfl
@[simp] theorem State.setBitwise_params (x : RegIdx) (b : Byte) : (s.setBitwise x b).params = s.params := by
  unfold State.setBitwise; split <;> rfl
@[simp] theorem State.setBitwise_randDraws (x : RegIdx) (b : Byte) : (s.setBitwise x b).randDraws = s.randDraws := by
  unfold State.setBitwise; split <;> rfl
@[simp] theorem State.setBitwise_batchLeft (x : RegIdx) (b : Byte) : (s.setBitwise x b).batchLeft = s.batchLeft := by
  unfold State.setBitwise; split <;> rfl
@[simp] theorem State.setBitwise_outcome (x : RegIdx) (b : Byte) : (s.setBitwise x b).outcome = s.outcome := by
  unfold State.setBitwise; split <;> rfl
@[simp] theorem State.setBitwise_inputs (x : RegIdx) (b : Byte) : (s.setBitwise x b).inputs = s.inputs := by
  unfold State.setBitwise; split <;> rfl

/-! ### `setResult` -/

@[simp] theorem State.setResult_i (x : RegIdx) (r : Byte × Bool) : (s.setResult x r).i = s.i := rfl
@[simp] theorem State.setResult_pc (x : RegIdx) (r : Byte × Bool) : (s.setResult x r).pc = s.pc := rfl
@[simp] theorem State.setResult_stack (x : RegIdx) (r : Byte × Bool) : (s.setResult x r).stack = s.stack := rfl
@[simp] theorem State.setResult_dt (x : RegIdx) (r : Byte × Bool) : (s.setResult x r).dt = s.dt := rfl
@[simp] theorem State.setResult_st (x : RegIdx) (r : Byte × Bool) : (s.setResult x r).st = s.st := rfl
@[simp] theorem State.setResult_down (x : RegIdx) (r : Byte × Bool) : (s.setResult x r).down = s.down := rfl
@[simp] theorem State.setResult_ktick (x : RegIdx) (r : Byte × Bool) : (s.setResult x r).ktick = s.ktick := rfl
@[simp] theorem State.setResult_latch (x : RegIdx) (r : Byte × Bool) : (s.setResult x r).latch = s.latch := rfl
@[simp] theorem State.setResult_plane0 (x : RegIdx) (r : Byte × Bool) : (s.setResult x r).plane0 = s.plane0 := rfl
@[simp] theorem State.setResult_plane1 (x : RegIdx) (r : Byte × Bool) : (s.setResult x r).plane1 = s.plane1 := rfl
@[simp] theorem State.setResult_mode (x : RegIdx) (r : Byte × Bool) : (s.setResult x r).mode = s.mode := rfl
@[simp] theorem State.setResult_pmask (x : RegIdx) (r : Byte × Bool) : (s.setResult x r).pmask = s.pmask := rfl
@[simp] theorem State.setResult_pattern (x : RegIdx) (r : Byte × Bool) : (s.setResult x r).pattern = s.pattern := rfl
@[simp] theorem State.setResult_pitch (x : RegIdx) (r : Byte × Bool) : (s.setResult x r).pitch = s.pitch := rfl
@[simp] theorem State.setResult_mem (x : RegIdx) (r : Byte × Bool) : (s.setResult x r).mem = s.mem := rfl
@[simp] theorem State.setResult_flags (x : RegIdx) (r : Byte × Bool) : (s.setResult x r).flags = s.flags := rfl
@[simp] theorem State.setResult_executed (x : RegIdx) (r : Byte × Bool) : (s.setResult x r).executed = s.executed := rfl
@[simp] theorem State.setResult_drawsInBatch (x : RegIdx) (r : Byte × Bool) : (s.setResult x r).drawsInBatch = s.drawsInBatch := rfl
@[simp] theorem State.setResult_events (x : RegIdx) (r : Byte × Bool) : (s.setResult x r).events = s.events := rfl
@[simp] theorem State.setResult_fatal (x : RegIdx) (r : Byte × Bool) : (s.setResult x r).fatal = s.fatal := rfl
@[simp] theorem State.setResult_dialect (x : RegIdx) (r : Byte × Bool) : (s.setResult x r).dialect = s.dialect := rfl
@[simp] theorem State.setResult_quirks (x : RegIdx) (r : Byte × Bool) : (s.setResult x r).quirks = s.quirks := rfl
@[simp] theorem State.setResult_ipsBase (x : RegIdx) (r : Byte × Bool) : (s.setResult x r).ipsBase = s.ipsBase := rfl
@[simp] theorem State.setResult_params (x : RegIdx) (r : Byte × Bool) : (s.setResult x r).params = s.params := rfl
@[simp] theorem State.setResult_randDraws (x : RegIdx) (r : Byte × Bool) : (s.setResult x r).randDraws = s.randDraws := rfl
@[simp] theorem State.setResult_batchLeft (x : RegIdx) (r : Byte × Bool) : (s.setResult x r).batchLeft = s.batchLeft := rfl
@[simp] theorem State.setResult_outcome (x : RegIdx) (r : Byte × Bool) : (s.setResult x r).outcome = s.outcome := rfl
@[simp] theorem State.setResult_inputs (x : RegIdx) (r : Byte × Bool) : (s.setResult x r).inputs = s.inputs := rfl

/-! ### `setRegs` -/

@[simp] theorem State.setRegs_i (xs : List RegIdx) (bs : List Byte) : (s.setRegs xs bs).i = s.i := by
  fun_induction State.setRegs s xs bs <;> simp_all
@[simp] theorem State.setRegs_pc (xs : List RegIdx) (bs : List Byte) : (s.setRegs xs bs).pc = s.pc := by
  fun_induction State.setRegs s xs bs <;> simp_all
@[simp] theorem State.setRegs_stack (xs : List RegIdx) (bs : List Byte) : (s.setRegs xs bs).stack = s.stack := by
  fun_induction State.setRegs s xs bs <;> simp_all
@[simp] theorem State.setRegs_dt (xs : List RegIdx) (bs : List Byte) : (s.setRegs xs bs).dt = s.dt := by
  fun_induction State.setRegs s xs bs <;> simp_all
@[simp] theorem State.setRegs_st (xs : List RegIdx) (bs : List Byte) : (s.setRegs xs bs).st = s.st := by
  fun_induction State.setRegs s xs bs <;> simp_all
@[simp] theorem State.setRegs_down (xs : List RegIdx) (bs : List Byte) : (s.setRegs xs bs).down = s.down := by
  fun_induction State.setRegs s xs bs <;> simp_all
@[simp] theorem State.setRegs_ktick (xs : List RegIdx) (bs : List Byte) : (s.setRegs xs bs).ktick = s.ktick := by
  fun_induction State.setRegs s xs bs <;> simp_all
@[simp] theorem State.setRegs_latch (xs : List RegIdx) (bs : List Byte) : (s.setRegs xs bs).latch = s.latch := by
  fun_induction State.setRegs s xs bs <;> simp_all
@[simp] theorem State.setRegs_plane0 (xs : List RegIdx) (bs : List Byte) : (s.setRegs xs bs).plane0 = s.plane0 := by
  fun_induction State.setRegs s xs bs <;> simp_all
@[simp] theorem State.setRegs_plane1 (xs : List RegIdx) (bs : List Byte) : (s.setRegs xs bs).plane1 = s.plane1 := by
  fun_induction State.setRegs s xs bs <;> simp_all
@[simp] theorem State.setRegs_mode (xs : List RegIdx) (bs : List Byte) : (s.setRegs xs bs).mode = s.mode := by
  fun_induction State.setRegs s xs bs <;> simp_all
@[simp] theorem State.setRegs_pmask (xs : List RegIdx) (bs : List Byte) : (s.setRegs xs bs).pmask = s.pmask := by
  fun_induction State.setRegs s xs bs <;> simp_all
@[simp] theorem State.setRegs_pattern (xs : List RegIdx) (bs : List Byte) : (s.setRegs xs bs).pattern = s.pattern := by
  fun_induction State.setRegs s xs bs <;> simp_all
@[simp] theorem State.setRegs_pitch (xs : List RegIdx) (bs : List Byte) : (s.setRegs xs bs).pitch = s.pitch := by
  fun_induction State.setRegs s xs bs <;> simp_all
@[simp] theorem State.setRegs_mem (xs : List RegIdx) (bs : List Byte) : (s.setRegs xs bs).mem = s.mem := by
  fun_induction State.setRegs s xs bs <;> simp_all
@[simp] theorem State.setRegs_flags (xs : List RegIdx) (bs : List Byte) : (s.setRegs xs bs).flags = s.flags := by
  fun_induction State.setRegs s xs bs <;> simp_all
@[simp] theorem State.setRegs_executed (xs : List RegIdx) (bs : List Byte) : (s.setRegs xs bs).executed = s.executed := by
  fun_induction State.setRegs s xs bs <;> simp_all
@[simp] theorem State.setRegs_drawsInBatch (xs : List RegIdx) (bs : List Byte) : (s.setRegs xs bs).drawsInBatch = s.drawsInBatch := by
  fun_induction State.setRegs s xs bs <;> simp_all
@[simp] theorem State.setRegs_events (xs : List RegIdx) (bs : List Byte) : (s.setRegs xs bs).events = s.events := by
  fun_induction State.setRegs s xs bs <;> simp_all
@[simp] theorem State.setRegs_fatal (xs : List RegIdx) (bs : List Byte) : (s.setRegs xs bs).fatal = s.fatal := by
  fun_induction State.setRegs s xs bs <;> simp_all
@[simp] theorem State.setRegs_dialect (xs : List RegIdx) (bs : List Byte) : (s.setRegs xs bs).dialect = s.dialect := by
  fun_induction State.setRegs s xs bs <;> simp_all
@[simp] theorem State.setRegs_quirks (xs : List RegIdx) (bs : List Byte) : (s.setRegs xs bs).quirks = s.quirks := by
  fun_induction State.setRegs s xs bs <;> simp_all
@[simp] theorem State.setRegs_ipsBase (xs : List RegIdx) (bs : List Byte) : (s.setRegs xs bs).ipsBase = s.ipsBase := by
  fun_induction State.setRegs s xs bs <;> simp_all
@[simp] theorem State.setRegs_params (xs : List RegIdx) (bs : List Byte) : (s.setRegs xs bs).params = s.params := by
  fun_induction State.setRegs s xs bs <;> simp_all
@[simp] theorem State.setRegs_randDraws (xs : List RegIdx) (bs : List Byte) : (s.setRegs xs bs).randDraws = s.randDraws := by
  fun_induction State.setRegs s xs bs <;> simp_all
@[simp] theorem State.setRegs_batchLeft (xs : List RegIdx) (bs : List Byte) : (s.setRegs xs bs).batchLeft = s.batchLeft := by
  fun_induction State.setRegs s xs bs <;> simp_all
@[simp] theorem State.setRegs_outcome (xs : List RegIdx) (bs : List Byte) : (s.setRegs xs bs).outcome = s.outcome := by
  fun_induction State.setRegs s xs bs <;> simp_all
@[simp] theorem State.setRegs_inputs (xs : List RegIdx) (bs : List Byte) : (s.setRegs xs bs).inputs = s.inputs := by
  fun_induction State.setRegs s xs bs <;> simp_all

end Sys2Proof.Machine
end

