-- ==== Sys2Proof/Laws/Registers.lean ====
section
/-! SUPPORT. General registers, register ranges and flag storage (spec/10_state.md R20, R21; spec/20_memory.md R67;
spec/43_index_and_memory.md R166 to R171). -/

namespace Sys2Proof.Machine

set_option Elab.async false

/-! ### One register -/

/-- R20: a register reads as the last byte written to it, and a write leaves the others alone. -/
theorem getV_setV (s : State) (x k : RegIdx) (b : Byte) :
    (s.setV x b).getV k = if k = x then b else s.getV k := by
  have h : x.toNat = k.toNat ↔ k = x := by rw [← BitVec.toNat_inj, eq_comm]
  simp only [State.getV, State.setV, Vector.getElem_set]
  by_cases hk : k = x
  · simp [hk]
  · rw [if_neg (mt h.1 hk), if_neg hk]

@[simp] theorem getV_setV_self (s : State) (x : RegIdx) (b : Byte) : (s.setV x b).getV x = b := by simp [getV_setV]

theorem getV_setV_ne (s : State) {x k : RegIdx} (h : k ≠ x) (b : Byte) : (s.setV x b).getV k = s.getV k := by
  simp [getV_setV, h]

/-- R21: `set_carry` writes exactly 1 or 0 to VF and nothing else. -/
theorem getV_setCarry (s : State) (b : Bool) (k : RegIdx) :
    (s.setCarry b).getV k = if k = 0xF#4 then (if b then 1#8 else 0#8) else s.getV k := getV_setV s _ _ _

/-- R21, D7: a result and its flag: the flag is in VF also when VF is the destination. -/
theorem getV_setResult (s : State) (x : RegIdx) (r : Byte × Bool) (k : RegIdx) :
    (s.setResult x r).getV k =
      if k = 0xF#4 then (if r.2 then 1#8 else 0#8) else if k = x then r.1 else s.getV k := by
  simp only [State.setResult, getV_setCarry, getV_setV]

/-- R143 to R145: a bitwise result, with VF cleared under `Q.vf_reset`. -/
theorem getV_setBitwise (s : State) (x : RegIdx) (r : Byte) (k : RegIdx) :
    (s.setBitwise x r).getV k =
      if s.quirks.vfReset = true ∧ k = 0xF#4 then 0#8 else if k = x then r else s.getV k := by
  unfold State.setBitwise
  cases s.quirks.vfReset <;> simp [getV_setCarry, getV_setV]

/-- A register read sees only the register file. -/
theorem getV_congr {s t : State} (h : t.v = s.v) (k : RegIdx) : t.getV k = s.getV k := by simp [State.getV, h]

@[simp] theorem getV_setI (s : State) (a : Addr) (k : RegIdx) : (s.setI a).getV k = s.getV k := rfl
@[simp] theorem getV_setPc (s : State) (a : Addr) (k : RegIdx) : (s.setPc a).getV k = s.getV k := rfl
@[simp] theorem getV_advance (s : State) (k : RegIdx) : s.advance.getV k = s.getV k := rfl
@[simp] theorem getV_skipIf (s : State) (b : Bool) (k : RegIdx) : (s.skipIf b).getV k = s.getV k := rfl
@[simp] theorem getV_emit (s : State) (e : Event) (k : RegIdx) : (s.emit e).getV k = s.getV k := rfl
@[simp] theorem getV_retire (s : State) (k : RegIdx) : s.retire.getV k = s.getV k := rfl
@[simp] theorem getV_onTargets (s : State) (f : Plane → Plane) (k : RegIdx) : (s.onTargets f).getV k = s.getV k := rfl
@[simp] theorem getV_bumpI (s : State) (n : Nat) (k : RegIdx) : (s.bumpI n).getV k = s.getV k :=
  getV_congr (State.bumpI_v s n) k

/-- The register file is its sixteen registers. -/
theorem v_ext {s t : State} (h : ∀ k, t.getV k = s.getV k) : t.v = s.v := by
  apply Vector.ext
  intro j hj
  have := h (BitVec.ofNat 4 j)
  simp only [State.getV, BitVec.toNat_ofNat] at this
  have e : j % 2 ^ 4 = j := Nat.mod_eq_of_lt (by omega)
  simpa only [e] using this

/-! ### Ranges -/

/-- R168, R169: `abs(x - y) + 1` registers. -/
@[simp] theorem length_regRange (x y : RegIdx) :
    (regRange x y).length = (x.toNat - y.toNat) + (y.toNat - x.toNat) + 1 := by
  unfold regRange
  split <;> simp <;> omega

@[simp] theorem length_regsUpTo (x : RegIdx) : (regsUpTo x).length = x.toNat + 1 := by simp [regsUpTo]

theorem length_regRange_le (x y : RegIdx) : (regRange x y).length ≤ 16 := by
  have := x.isLt
  have := y.isLt
  rw [length_regRange]
  omega

/-- R168, R169: the j-th register of a range, ascending or descending. -/
theorem getElem_regRange (x y : RegIdx) (j : Nat) (h : j < (regRange x y).length) :
    ((regRange x y)[j]).toNat = if x.toNat ≤ y.toNat then x.toNat + j else x.toNat - j := by
  have h' := h
  rw [length_regRange] at h'
  have := x.isLt
  have := y.isLt
  by_cases hxy : x.toNat ≤ y.toNat
  · simp only [regRange, hxy, if_true, List.getElem_map, List.getElem_range, BitVec.toNat_ofNat]
    omega
  · simp only [regRange, hxy, if_false, List.getElem_map, List.getElem_range, BitVec.toNat_ofNat]
    omega

theorem getElem_regsUpTo (x : RegIdx) (j : Nat) (h : j < (regsUpTo x).length) : ((regsUpTo x)[j]).toNat = j := by
  exact (getElem_regRange 0#4 x j h).trans (by simp)

/-- The registers of a range are distinct. -/
theorem nodup_regRange (x y : RegIdx) : (regRange x y).Nodup := by
  rw [List.nodup_iff_injective_get]
  intro a b hab
  have h1 := getElem_regRange x y a.1 a.2
  have h2 := getElem_regRange x y b.1 b.2
  have h3 := a.2.trans_eq (length_regRange x y)
  have h4 := b.2.trans_eq (length_regRange x y)
  have e : (regRange x y)[a.1] = (regRange x y)[b.1] := hab
  rw [e] at h1
  rw [h2] at h1
  apply Fin.ext
  split at h1 <;> omega

/-- The registers of a range are those between its ends. -/
theorem mem_regRange (x y k : RegIdx) :
    k ∈ regRange x y ↔ min x.toNat y.toNat ≤ k.toNat ∧ k.toNat ≤ max x.toNat y.toNat := by
  have hx := x.isLt
  have hy := y.isLt
  constructor
  · intro h
    obtain ⟨j, hj, rfl⟩ := List.getElem_of_mem h
    have h1 := getElem_regRange x y j hj
    rw [length_regRange] at hj
    split at h1 <;> omega
  · intro h
    have key : ∀ j, (hj : j < (regRange x y).length) →
        (if x.toNat ≤ y.toNat then x.toNat + j else x.toNat - j) = k.toNat → k ∈ regRange x y := by
      intro j hj e
      have h1 := getElem_regRange x y j hj
      rw [e] at h1
      exact BitVec.eq_of_toNat_eq h1 ▸ List.getElem_mem hj
    by_cases hxy : x.toNat ≤ y.toNat
    · exact key (k.toNat - x.toNat) (by rw [length_regRange]; omega) (by rw [if_pos hxy]; omega)
    · exact key (x.toNat - k.toNat) (by rw [length_regRange]; omega) (by rw [if_neg hxy]; omega)

theorem mem_regsUpTo (x k : RegIdx) : k ∈ regsUpTo x ↔ k.toNat ≤ x.toNat := by
  simp [regsUpTo, mem_regRange]

@[simp] theorem length_getRegs (s : State) (xs : List RegIdx) : (s.getRegs xs).length = xs.length := by
  simp [State.getRegs]

/-! ### Several registers -/

/-- A register outside the list is not written. -/
theorem getV_setRegs_of_not_mem (s : State) (xs : List RegIdx) (bs : List Byte) (k : RegIdx) (h : k ∉ xs) :
    (s.setRegs xs bs).getV k = s.getV k := by
  fun_induction State.setRegs s xs bs with
  | case1 s x xs b bs ih =>
    simp only [List.mem_cons, not_or] at h
    rw [ih h.2, getV_setV_ne s h.1]
  | case2 => rfl

/-- R167, R169, R171: with distinct registers, the j-th register gets the j-th byte. -/
theorem getV_setRegs_getElem (s : State) (xs : List RegIdx) (bs : List Byte) (hn : xs.Nodup) (j : Nat)
    (hj : j < xs.length) (hb : j < bs.length) : (s.setRegs xs bs).getV xs[j] = bs[j] := by
  induction xs generalizing s bs j with
  | nil => simp at hj
  | cons x xs ih =>
    cases bs with
    | nil => simp at hb
    | cons b bs =>
      rw [List.nodup_cons] at hn
      cases j with
      | zero => simp [State.setRegs, getV_setRegs_of_not_mem _ xs bs x hn.1]
      | succ j => exact ih (s.setV x b) bs hn.2 j (by simpa using hj) (by simpa using hb)

/-! ### Flag storage -/

theorem getElem_flagSetAll (f : Vector Byte 16) (j : Nat) (bs : List Byte) (k : Nat) (hk : k < 16) :
    (flagSetAll f j bs)[k] = if j ≤ k ∧ k < j + bs.length then bs.getD (k - j) 0#8 else f[k] := by
  induction bs generalizing f j with
  | nil =>
    have : ¬(j ≤ k ∧ k < j + ([] : List Byte).length) := by simp
    rw [if_neg this, flagSetAll]
  | cons b bs ih =>
    rw [flagSetAll, ih, List.length_cons, Vector.getElem_setIfInBounds]
    by_cases h1 : j = k
    · subst h1
      simp
    · by_cases h2 : j + 1 ≤ k ∧ k < j + 1 + bs.length
      · have h3 : j ≤ k ∧ k < j + (bs.length + 1) := by omega
        have h4 : k - j = (k - (j + 1)) + 1 := by omega
        rw [if_pos h2, if_pos h3, h4, List.getD_cons_succ]
      · have h3 : ¬(j ≤ k ∧ k < j + (bs.length + 1)) := by omega
        rw [if_neg h2, if_neg h3, if_neg h1]

/-- R67: `FlagWrite` of at most 16 bytes always succeeds. -/
theorem flagWrite_eq (f : Vector Byte 16) {bs : List Byte} (h : bs.length ≤ 16) :
    flagWrite f bs = some (flagSetAll f 0 bs) := by
  simp [flagWrite, h]

/-- R67: `FlagRead` of at most 16 bytes always succeeds. -/
theorem flagRead_eq (f : Vector Byte 16) {n : Nat} (h : n ≤ 16) : flagRead f n = some (f.toList.take n) := by
  simp [flagRead, h]

/-! ### Frames -/

/-- A bitwise result changes the register file alone. -/
theorem setBitwise_frame (s : State) (x : RegIdx) (r : Byte) :
    s.setBitwise x r = { s with v := (s.setBitwise x r).v } := by
  unfold State.setBitwise
  split <;> rfl

/-- A transfer into registers changes the register file alone. -/
theorem setRegs_frame (s : State) (xs : List RegIdx) (bs : List Byte) :
    s.setRegs xs bs = { s with v := (s.setRegs xs bs).v } := by
  fun_induction State.setRegs s xs bs with
  | case1 s x xs b bs ih => rw [ih]; rfl
  | case2 => rfl

/-- R166, R167: the advance of I changes I alone. -/
theorem bumpI_frame (s : State) (n : Nat) : s.bumpI n = { s with i := (s.bumpI n).i } := by
  unfold State.bumpI
  split <;> rfl

/-- The j-th byte of the registers of a list is the j-th register. -/
theorem getD_getRegs (s : State) (xs : List RegIdx) (j : Nat) (h : j < xs.length) :
    (s.getRegs xs).getD j 0#8 = s.getV xs[j] := by
  simp [State.getRegs, List.getD_eq_getElem?_getD, List.getElem?_eq_getElem h]

end Sys2Proof.Machine
end

