-- ==== Sys2Proof/Laws/Display.lean ====
section
/-! SUPPORT. Planes, touched pixels and scrolls (spec/45_display.md R190 to R202). -/

namespace Sys2Proof.Machine

set_option Elab.async false

/-! ### Planes -/

theorem pixel_eq_false_of_px {p : Plane} {px py : Nat} (h : 128 ≤ px) : p.pixel px py = false := by
  simp [Plane.pixel, BitVec.getLsbD_of_ge _ _ h]

theorem pixel_eq_false_of_py {p : Plane} {px py : Nat} (h : 64 ≤ py) : p.pixel px py = false := by
  simp [Plane.pixel, List.getD_eq_getElem?_getD, h]

/-- Two planes with the same pixels are the same plane. -/
theorem plane_ext {p q : Plane} (h : ∀ px py, px < 128 → py < 64 → p.pixel px py = q.pixel px py) : p = q := by
  apply Vector.ext
  intro py hy
  apply BitVec.eq_of_getLsbD_eq
  intro px hx
  have := h px py hx hy
  simpa [Plane.pixel, List.getD_eq_getElem?_getD, hy] using this

theorem pixel_ofRows (f : Nat → BitVec 128) (px py : Nat) :
    (Plane.ofRows f).pixel px py = (decide (py < 64) && (f py).getLsbD px) := by
  by_cases h : py < 64 <;> simp [Plane.ofRows, Plane.pixel, List.getD_eq_getElem?_getD, Vector.toList, h]

/-- R192: toggling a pixel of the plane changes that pixel and no other. -/
theorem pixel_flip (p : Plane) {a b : Nat} (ha : a < 128) (hb : b < 64) (px py : Nat) :
    (p.flip a b).pixel px py = (p.pixel px py ^^ decide (px = a ∧ py = b)) := by
  unfold Plane.flip Plane.pixel
  by_cases h : b = py
  · subst h
    simp [List.getD_eq_getElem?_getD, hb, BitVec.getLsbD_twoPow, ha, eq_comm]
  · have h' : py ≠ b := fun e => h e.symm
    simp [List.getD_eq_getElem?_getD, h, h']

@[simp] theorem pixel_clear (px py : Nat) : Plane.clear.pixel px py = false := by
  have h : Plane.clear = Plane.ofRows fun _ => 0#128 := by decide
  simp [h, pixel_ofRows]

/-- R202 -/
theorem pixel_scrollDown (a : Nat) (p : Plane) (px py : Nat) :
    (Plane.scrollDown a p).pixel px py = (decide (py < 64) && decide (a ≤ py) && p.pixel px (py - a)) := by
  rw [Plane.scrollDown, pixel_ofRows]
  by_cases h : a ≤ py <;> simp [h, Plane.pixel]

/-- R202 -/
theorem pixel_scrollUp (a : Nat) (p : Plane) (px py : Nat) :
    (Plane.scrollUp a p).pixel px py = (decide (py < 64) && p.pixel px (py + a)) := by
  rw [Plane.scrollUp, pixel_ofRows]
  rfl

/-- R202 -/
theorem pixel_scrollRight (a : Nat) (p : Plane) (px py : Nat) :
    (Plane.scrollRight a p).pixel px py =
      (decide (py < 64) && decide (px < 128) && decide (a ≤ px) && p.pixel (px - a) py) := by
  rw [Plane.scrollRight, pixel_ofRows, BitVec.getLsbD_shiftLeft]
  by_cases h : a ≤ px <;> simp [h, Plane.pixel, Bool.and_assoc, Nat.not_lt.2, Nat.lt_of_not_le]

/-- R202 -/
theorem pixel_scrollLeft (a : Nat) (p : Plane) (px py : Nat) :
    (Plane.scrollLeft a p).pixel px py = (decide (py < 64) && p.pixel (px + a) py) := by
  rw [Plane.scrollLeft, pixel_ofRows, BitVec.getLsbD_ushiftRight, Nat.add_comm]
  rfl

/-! ### Toggling a list of pixels -/

theorem xorPixels_go (ps : List (Nat × Nat)) (hn : ps.Nodup) (hb : ∀ q ∈ ps, q.1 < 128 ∧ q.2 < 64) (p : Plane)
    (hit : Bool) :
    (∀ px py, (ps.foldl (fun (acc : Plane × Bool) q => (acc.1.flip q.1 q.2, acc.2 || acc.1.pixel q.1 q.2)) (p, hit)).1.pixel
        px py = (p.pixel px py ^^ decide ((px, py) ∈ ps))) ∧
    (ps.foldl (fun (acc : Plane × Bool) q => (acc.1.flip q.1 q.2, acc.2 || acc.1.pixel q.1 q.2)) (p, hit)).2 =
      (hit || ps.any fun q => p.pixel q.1 q.2) := by
  induction ps generalizing p hit with
  | nil => simp
  | cons q ps ih =>
    rw [List.nodup_cons] at hn
    obtain ⟨hq1, hq2⟩ := hb q (by simp)
    obtain ⟨h1, h2⟩ := ih hn.2 (fun r hr => hb r (by simp [hr])) (p.flip q.1 q.2) (hit || p.pixel q.1 q.2)
    constructor
    · intro px py
      rw [List.foldl_cons, h1 px py, pixel_flip p hq1 hq2]
      by_cases e : (px, py) = q
      · subst e
        simp [hn.1]
      · have e' : ¬(px = q.1 ∧ py = q.2) := fun h => e (Prod.ext h.1 h.2)
        simp [e, e']
    · rw [List.foldl_cons, h2, List.any_cons, Bool.or_assoc]
      congr 2
      apply Bool.eq_iff_iff.2
      simp only [List.any_eq_true]
      refine exists_congr fun r => and_congr_right fun hr => ?_
      rw [pixel_flip p hq1 hq2]
      have : ¬(r.1 = q.1 ∧ r.2 = q.2) := fun h => hn.1 (Prod.ext h.1 h.2 ▸ hr)
      simp [this]

/-- R192: distinct pixels toggled: exactly those pixels change. -/
theorem pixel_xorPixels {ps : List (Nat × Nat)} (hn : ps.Nodup) (hb : ∀ q ∈ ps, q.1 < 128 ∧ q.2 < 64) (p : Plane)
    (px py : Nat) : (xorPixels p ps).1.pixel px py = (p.pixel px py ^^ decide ((px, py) ∈ ps)) :=
  (xorPixels_go ps hn hb p false).1 px py

/-- R193: distinct pixels toggled: a collision is one of them having been 1 before the draw. -/
theorem hit_xorPixels {ps : List (Nat × Nat)} (hn : ps.Nodup) (hb : ∀ q ∈ ps, q.1 < 128 ∧ q.2 < 64) (p : Plane) :
    (xorPixels p ps).2 = ps.any fun q => p.pixel q.1 q.2 := by
  exact (xorPixels_go ps hn hb p false).2.trans (Bool.false_or _)

/-! ### The pixels a sprite touches -/

theorem mem_spriteBits {w : Nat} (rows : List (BitVec w)) (col r : Nat) :
    (col, r) ∈ spriteBits rows ↔ col < w ∧ ∃ h : r < rows.length, rows[r].getMsbD col = true := by
  simp only [spriteBits, List.mem_flatMap, List.mem_filterMap, List.mem_range, Prod.exists, List.mem_zipIdx_iff_getElem?,
    Option.ite_none_right_eq_some, Option.some.injEq, Prod.mk.injEq]
  constructor
  · rintro ⟨row, r', hr, col', hc, hb, rfl, rfl⟩
    obtain ⟨h, rfl⟩ := List.getElem?_eq_some_iff.1 hr
    exact ⟨hc, h, hb⟩
  · rintro ⟨hc, h, hb⟩
    exact ⟨rows[r], r, List.getElem?_eq_some_iff.2 ⟨h, rfl⟩, col, hc, hb, rfl, rfl⟩

theorem nodup_spriteBits {w : Nat} (rows : List (BitVec w)) : (spriteBits rows).Nodup := by
  unfold spriteBits
  rw [List.nodup_flatMap]
  refine ⟨fun q _ => ?_, ?_⟩
  · apply List.Nodup.filterMap _ List.nodup_range
    intro a b c ha hb
    simp only [Option.mem_def, Option.ite_none_right_eq_some, Option.some.injEq] at ha hb
    have := ha.2.trans hb.2.symm
    simpa using congrArg Prod.fst this
  · have h : (rows.zipIdx.map Prod.snd).Nodup := by
      rw [List.zipIdx_map_snd]
      exact List.nodup_range'
    rw [List.Nodup, List.pairwise_map] at h
    refine h.imp fun {a b} hab => ?_
    simp only [Function.onFun, List.disjoint_left, List.mem_filterMap, List.mem_range, not_exists, not_and]
    rintro c ⟨u, -, hu⟩ v - hv
    simp only [Option.ite_none_right_eq_some, Option.some.injEq] at hu hv
    have := hu.2.trans hv.2.symm
    exact hab (by simpa using congrArg Prod.snd this)

theorem mem_block {f : Nat} (hf : 0 < f) (l : Nat × Nat) (px py : Nat) :
    (px, py) ∈ block f l ↔ px / f = l.1 ∧ py / f = l.2 := by
  simp only [block, List.mem_flatMap, List.mem_map, List.mem_range, Prod.mk.injEq]
  constructor
  · rintro ⟨dy, hy, dx, hx, rfl, rfl⟩
    rw [Nat.mul_comm l.1, Nat.mul_comm l.2, Nat.mul_add_div hf, Nat.mul_add_div hf, Nat.div_eq_of_lt hx,
      Nat.div_eq_of_lt hy]
    simp
  · rintro ⟨h1, h2⟩
    refine ⟨py % f, Nat.mod_lt _ hf, px % f, Nat.mod_lt _ hf, ?_, ?_⟩
    · rw [← h1, Nat.mul_comm, Nat.div_add_mod]
    · rw [← h2, Nat.mul_comm, Nat.div_add_mod]

theorem nodup_block {f : Nat} (l : Nat × Nat) : (block f l).Nodup := by
  unfold block
  rw [List.nodup_flatMap]
  refine ⟨fun dy _ => ?_, ?_⟩
  · apply List.Nodup.map _ List.nodup_range
    intro a b h
    simp only [Prod.mk.injEq] at h
    omega
  · refine List.nodup_range.imp fun {a b} hab => ?_
    simp only [Function.onFun, List.disjoint_left, List.mem_map, List.mem_range, not_exists, not_and]
    rintro c ⟨u, -, rfl⟩ v - hv
    simp only [Prod.mk.injEq] at hv
    omega

/-- R192, R194, R196: the touched pixels, as `Touches` says them. -/
theorem mem_spritePixels {w f : Nat} (hf : 0 < f) (clip : Bool) (x y : Byte) (rows : List (BitVec w)) (px py : Nat) :
    (px, py) ∈ spritePixels f clip x y rows ↔
      Touches f w rows.length clip x.toNat y.toNat (fun r col => (rows.getD r 0#w).getMsbD col) px py := by
  simp only [spritePixels, Touches, List.mem_flatMap, List.mem_filterMap, Prod.exists, mem_spriteBits, place, clipping,
    Option.ite_none_left_eq_some, Option.some.injEq, mem_block hf, Config.planeW, Config.planeH]
  constructor
  · rintro ⟨lx, ly, ⟨col, r, ⟨hc, hr, hb⟩, hclip, hl⟩, h1, h2⟩
    refine ⟨r, col, hr, hc, by simpa [List.getD_eq_getElem?_getD, hr] using hb, ?_, ?_, ?_⟩
    · simp only [Bool.and_eq_true, Bool.or_eq_true, Bool.not_eq_true', Bool.or_eq_false_iff, decide_eq_true_eq,
        decide_eq_false_iff_not, not_le] at hclip
      rintro ⟨a, b, c, d⟩
      exact hclip ⟨⟨a, b, c⟩, d⟩
    · rw [h1]; exact (congrArg Prod.fst hl).symm
    · rw [h2]; exact (congrArg Prod.snd hl).symm
  · rintro ⟨r, col, hr, hc, hb, hclip, h1, h2⟩
    refine ⟨_, _, ⟨col, r, ⟨hc, hr, by simpa [List.getD_eq_getElem?_getD, hr] using hb⟩, ?_, rfl⟩, h1, h2⟩
    simp only [Bool.and_eq_true, Bool.or_eq_true, Bool.not_eq_true', Bool.or_eq_false_iff, decide_eq_true_eq,
      decide_eq_false_iff_not, not_le]
    rintro ⟨⟨a, b, c⟩, d⟩
    exact hclip ⟨a, b, c, d⟩

/-- `Touches` asks only for the bits of the sprite. -/
theorem touches_congr {f w rows : Nat} {clip : Bool} {x y : Nat} {b1 b2 : Nat → Nat → Bool}
    (h : ∀ r c, r < rows → c < w → b1 r c = b2 r c) (px py : Nat) :
    Touches f w rows clip x y b1 px py ↔ Touches f w rows clip x y b2 px py := by
  unfold Touches
  constructor <;> rintro ⟨r, c, h1, h2, h3, h4⟩ <;> refine ⟨r, c, h1, h2, ?_, h4⟩
  · rw [← h r c h1 h2]
    exact h3
  · rw [h r c h1 h2]
    exact h3

/-- R193 (derived there): a sprite no wider or taller than the screen touches no pixel twice. -/
theorem nodup_spritePixels {w f : Nat} (hf : 0 < f) (clip : Bool) (x y : Byte) (rows : List (BitVec w))
    (hw : w ≤ 128 / f) (hr : rows.length ≤ 64 / f) : (spritePixels f clip x y rows).Nodup := by
  unfold spritePixels
  rw [List.nodup_flatMap]
  refine ⟨fun q _ => nodup_block q, ?_⟩
  have key : ((spriteBits rows).filterMap (place (clipping clip (128 / f) (64 / f) x.toNat y.toNat) (128 / f) (64 / f)
      x.toNat y.toNat)).Nodup := by
    rw [List.Nodup, List.pairwise_filterMap]
    refine List.Pairwise.imp_of_mem ?_ (nodup_spriteBits rows)
    rintro ⟨c1, r1⟩ ⟨c2, r2⟩ hm1 hm2 hne l1 hl1 l2 hl2 heq
    rw [mem_spriteBits] at hm1 hm2
    obtain ⟨hc1, hr1, -⟩ := hm1
    obtain ⟨hc2, hr2, -⟩ := hm2
    simp only [place, Option.ite_none_left_eq_some, Option.some.injEq] at hl1 hl2
    subst heq
    have e := hl1.2.trans hl2.2.symm
    simp only [Prod.mk.injEq] at e
    have inj : ∀ {m a b c : Nat}, b < m → c < m → (a + b) % m = (a + c) % m → b = c := by
      intro m a b c h1 h2 h
      have := Nat.ModEq.add_left_cancel' a (show a + b ≡ a + c [MOD m] from h)
      rw [Nat.ModEq, Nat.mod_eq_of_lt h1, Nat.mod_eq_of_lt h2] at this
      exact this
    exact hne (Prod.ext (inj (by omega) (by omega) e.1) (inj (by omega) (by omega) e.2))
  refine key.imp fun {a b} hab => ?_
  simp only [Function.onFun, List.disjoint_left, Prod.forall]
  intro px py h1 h2
  rw [mem_block hf] at h1 h2
  exact hab (Prod.ext (h1.1.symm.trans h2.1) (h1.2.symm.trans h2.2))

/-- R192, R196: touched pixels are pixels of the plane. -/
theorem spritePixels_bound {w f : Nat} (hf : f = 1 ∨ f = 2) (clip : Bool) (x y : Byte) (rows : List (BitVec w)) :
    ∀ q ∈ spritePixels f clip x y rows, q.1 < 128 ∧ q.2 < 64 := by
  rintro ⟨px, py⟩ hq
  rw [mem_spritePixels (by omega)] at hq
  obtain ⟨r, col, -, -, -, -, h1, h2⟩ := hq
  rcases hf with rfl | rfl
  · have := Nat.mod_lt (x.toNat + col) (show 0 < 128 / 1 by decide)
    have := Nat.mod_lt (y.toNat + r) (show 0 < 64 / 1 by decide)
    simp only [Nat.div_one] at *
    omega
  · have := Nat.mod_lt (x.toNat + col) (show 0 < 128 / 2 by decide)
    have := Nat.mod_lt (y.toNat + r) (show 0 < 64 / 2 by decide)
    omega

theorem factor_eq (m : Mode) : m.factor = 1 ∨ m.factor = 2 := by cases m <;> simp [Mode.factor]

@[simp] theorem length_superRows (bs : List Byte) : (superRows bs).length = bs.length / 2 := by
  fun_induction superRows bs with
  | case1 hi lo rest ih => simp [ih]; omega
  | case2 l h =>
    match l, h with
    | [], _ => rfl
    | [_], _ => simp
    | a :: b :: r, h => exact absurd rfl (h a b r)

/-- R196: row r of a super sprite is its bytes 2 r and 2 r + 1, the first the left half. -/
theorem getD_superRows (bs : List Byte) (r : Nat) (h : 2 * r + 1 < bs.length) :
    (superRows bs).getD r 0#16 = bs.getD (2 * r) 0#8 ++ bs.getD (2 * r + 1) 0#8 := by
  fun_induction superRows bs generalizing r with
  | case1 hi lo rest ih =>
    cases r with
    | zero => simp
    | succ r =>
      have e1 : 2 * (r + 1) = 2 * r + 1 + 1 := by omega
      have e2 : 2 * (r + 1) + 1 = (2 * r + 1) + 1 + 1 := by omega
      rw [List.getD_cons_succ, ih r (by simp at h; omega), e2, e1]
      simp only [List.getD_cons_succ]
  | case2 l hl =>
    match l, hl with
    | [], _ => simp at h
    | [_], _ => simp at h
    | a :: b :: q, hl => exact absurd rfl (hl a b q)

end Sys2Proof.Machine
end

