-- ==== Sys2Proof/Laws/Memory.lean ====
section
/-! SUPPORT. Main memory: read after write, and every memory operation keeps the canonical form (spec/20_memory.md R60
to R64). -/

namespace Sys2Proof.Machine

set_option Elab.async false

@[simp] theorem memGet_nil (a : Nat) : memGet [] a = resetByte a := rfl

/-- An address below every entry is unlisted. -/
theorem memGet_of_lt (m : Memory) (a : Nat) (h : ∀ c ∈ m, a < c.1) : memGet m a = resetByte a := by
  induction m with
  | nil => rfl
  | cons c rest ih =>
    have hc := h c (by simp)
    have : c.1 ≠ a := by omega
    simp only [memGet, this, if_false]
    exact ih fun d hd => h d (by simp [hd])

theorem wf_tail {c : Host.Cell} {m : Memory} (h : Memory.wf (c :: m)) : Memory.wf m :=
  ⟨(List.pairwise_cons.1 h.1).2, fun d hd => h.2 d (by simp [hd])⟩

theorem wf_head_lt {c : Host.Cell} {m : Memory} (h : Memory.wf (c :: m)) : ∀ d ∈ m, c.1 < d.1 :=
  (List.pairwise_cons.1 h.1).1

/-- R62, R74: a byte reads back as the last value stored there, and a store leaves every other byte alone. -/
theorem memGet_memSet {m : Memory} (hm : m.wf) (a : Nat) (b : Byte) (a' : Nat) :
    memGet (memSet m a b) a' = if a' = a then b else memGet m a' := by
  induction m with
  | nil =>
    unfold memSet
    split
    · split <;> simp_all
    · by_cases h : a' = a
      · simp [memGet, h]
      · simp [memGet, h, Ne.symm h]
  | cons c rest ih =>
    have hlt := wf_head_lt hm
    unfold memSet
    split
    next h1 =>
      have hget : memGet (c :: rest) a = resetByte a := by
        apply memGet_of_lt
        intro d hd
        rcases List.mem_cons.1 hd with rfl | hd
        · exact h1
        · have := hlt d hd
          omega
      split
      · by_cases h : a' = a
        · subst h
          simp_all
        · simp [h]
      · by_cases h : a' = a
        · simp [memGet, h]
        · simp [memGet, h, Ne.symm h]
    next h1 =>
      split
      next h2 =>
        have hget : memGet rest a = resetByte a := memGet_of_lt rest a fun d hd => by
          have := hlt d hd
          omega
        split
        · by_cases h : a' = a
          · subst h
            simp_all
          · have : c.1 ≠ a' := by omega
            simp [memGet, h, this]
        · by_cases h : a' = a
          · simp [memGet, h]
          · have h3 : c.1 ≠ a' := by omega
            simp [memGet, h, h3, Ne.symm h]
      next h2 =>
        simp only [memGet]
        rw [ih (wf_tail hm)]
        by_cases h : c.1 = a'
        · have : a' ≠ a := by omega
          simp [h, this]
        · simp [h]

theorem mem_memSet_bound (m : Memory) (a : Nat) (b : Byte) :
    ∀ d ∈ memSet m a b, d ∈ m ∨ (d.1 = a ∧ d.2 = b ∧ b ≠ resetByte a) := by
  induction m with
  | nil =>
    intro d hd
    unfold memSet at hd
    split at hd <;> simp_all
  | cons c rest ih =>
    intro d hd
    unfold memSet at hd
    split at hd
    · split at hd
      · exact .inl hd
      · rcases List.mem_cons.1 hd with rfl | hd
        · exact .inr ⟨rfl, rfl, ‹_›⟩
        · exact .inl hd
    · split at hd
      · split at hd
        · exact .inl (by simp [hd])
        · rcases List.mem_cons.1 hd with rfl | hd
          · exact .inr ⟨rfl, rfl, ‹_›⟩
          · exact .inl (by simp [hd])
      · rcases List.mem_cons.1 hd with rfl | hd
        · exact .inl (by simp)
        · rcases ih d hd with h | h
          · exact .inl (by simp [h])
          · exact .inr h

/-- A store inside memory keeps the canonical form. -/
theorem memSet_wf {m : Memory} (hm : m.wf) {a : Nat} (ha : a < Config.memSize) (b : Byte) : (memSet m a b).wf := by
  refine ⟨?_, fun d hd => ?_⟩
  · induction m with
    | nil => unfold memSet; split <;> simp
    | cons c rest ih =>
      have hlt := wf_head_lt hm
      unfold memSet
      split
      next h1 =>
        split
        · exact hm.1
        · refine List.pairwise_cons.2 ⟨fun d hd => ?_, hm.1⟩
          rcases List.mem_cons.1 hd with rfl | hd
          · exact h1
          · have := hlt d hd
            show a < d.1
            omega
      next h1 =>
        split
        next h2 =>
          split
          · exact (wf_tail hm).1
          · refine List.pairwise_cons.2 ⟨fun d hd => ?_, (wf_tail hm).1⟩
            have := hlt d hd
            show a < d.1
            omega
        next h2 =>
          refine List.pairwise_cons.2 ⟨fun d hd => ?_, ih (wf_tail hm)⟩
          rcases mem_memSet_bound rest a b d hd with h | h
          · exact hlt d h
          · omega
  · rcases mem_memSet_bound m a b d hd with h | ⟨h1, h2, h3⟩
    · exact hm.2 d h
    · rw [h1, h2]
      exact ⟨ha, h3⟩

/-- Stores inside memory keep the canonical form. -/
theorem memSetAll_wf {m : Memory} (hm : m.wf) {a : Nat} {bs : List Byte} (h : a + bs.length ≤ Config.memSize) :
    (memSetAll m a bs).wf := by
  induction bs generalizing m a with
  | nil => exact hm
  | cons b bs ih =>
    simp only [List.length_cons] at h
    exact ih (memSet_wf hm (by omega) b) (by omega)

/-- R62: after the stores, the bytes of the span read as stored and every other byte as before. -/
theorem memGet_memSetAll {m : Memory} (hm : m.wf) {a : Nat} {bs : List Byte} (h : a + bs.length ≤ Config.memSize)
    (a' : Nat) :
    memGet (memSetAll m a bs) a' =
      if a ≤ a' ∧ a' < a + bs.length then bs.getD (a' - a) 0#8 else memGet m a' := by
  induction bs generalizing m a with
  | nil =>
    have : ¬(a ≤ a' ∧ a' < a + ([] : List Byte).length) := by simp
    rw [if_neg this, memSetAll]
  | cons b bs ih =>
    simp only [List.length_cons] at h
    rw [memSetAll, ih (memSet_wf hm (by omega) b) (by omega), memGet_memSet hm]
    simp only [List.length_cons]
    by_cases h1 : a' = a
    · subst h1
      simp
    · by_cases h2 : a + 1 ≤ a' ∧ a' < a + 1 + bs.length
      · have h3 : a ≤ a' ∧ a' < a + (bs.length + 1) := by omega
        have h4 : a' - a = (a' - (a + 1)) + 1 := by omega
        rw [if_pos h2, if_pos h3, h4, List.getD_cons_succ]
      · have h3 : ¬(a ≤ a' ∧ a' < a + (bs.length + 1)) := by omega
        rw [if_neg h2, if_neg h3, if_neg h1]

/-- R62: `MemWrite` succeeds exactly on spans inside memory, and then stores them. -/
theorem memWrite_eq_some {m m' : Memory} {addr : Addr} {bs : List Byte} :
    memWrite m addr bs = some m' ↔ addr.toNat + bs.length ≤ Config.memSize ∧ m' = memSetAll m addr.toNat bs := by
  simp only [memWrite, inMemory, decide_eq_true_eq]
  split <;> rename_i h
  · exact ⟨fun e => ⟨h, (Option.some.inj e).symm⟩, fun e => by rw [e.2]⟩
  · exact ⟨fun e => by simp at e, fun e => absurd e.1 h⟩

theorem memWrite_eq_none {m : Memory} {addr : Addr} {bs : List Byte} :
    memWrite m addr bs = none ↔ Config.memSize < addr.toNat + bs.length := by
  simp only [memWrite, inMemory, decide_eq_true_eq]
  split <;> rename_i h
  · exact ⟨fun e => by simp at e, fun e => by omega⟩
  · exact ⟨fun _ => by omega, fun _ => rfl⟩

/-- Every `MemWrite` keeps the canonical form. -/
theorem memWrite_wf {m m' : Memory} {addr : Addr} {bs : List Byte} (hm : m.wf) (h : memWrite m addr bs = some m') :
    m'.wf := by
  obtain ⟨h1, rfl⟩ := memWrite_eq_some.1 h
  exact memSetAll_wf hm h1

/-- R63: `MemRead` succeeds exactly on spans inside memory and on empty spans. -/
theorem memRead_eq_some {m : Memory} {addr : Addr} {n : Nat} {bs : List Byte} :
    memRead m addr n = some bs ↔
      (n = 0 ∨ addr.toNat + n ≤ Config.memSize) ∧ bs = (List.range n).map fun j => memGet m (addr.toNat + j) := by
  simp only [memRead, inMemory, Bool.or_eq_true, decide_eq_true_eq]
  split <;> rename_i h
  · exact ⟨fun e => ⟨h, (Option.some.inj e).symm⟩, fun e => by rw [e.2]⟩
  · exact ⟨fun e => by simp at e, fun e => absurd e.1 h⟩

theorem memRead_eq_none {m : Memory} {addr : Addr} {n : Nat} :
    memRead m addr n = none ↔ n ≠ 0 ∧ Config.memSize < addr.toNat + n := by
  simp only [memRead, inMemory, Bool.or_eq_true, decide_eq_true_eq]
  split <;> rename_i h
  · exact ⟨fun e => by simp at e, fun e => by omega⟩
  · exact ⟨fun _ => by omega, fun _ => rfl⟩

/-- R64, R65: `FetchWord` succeeds exactly where two bytes are in memory, and is big-endian. -/
theorem fetchWord_eq_some {m : Memory} {addr : Addr} {w : Word} :
    fetchWord m addr = some w ↔
      addr.toNat + 2 ≤ Config.memSize ∧ w = memGet m addr.toNat ++ memGet m (addr.toNat + 1) := by
  simp only [fetchWord, inMemory, wordOfBytes, decide_eq_true_eq]
  split <;> rename_i h
  · exact ⟨fun e => ⟨h, (Option.some.inj e).symm⟩, fun e => by rw [e.2]⟩
  · exact ⟨fun e => by simp at e, fun e => absurd e.1 h⟩

theorem fetchWord_eq_none {m : Memory} {addr : Addr} :
    fetchWord m addr = none ↔ Config.memSize < addr.toNat + 2 := by
  simp only [fetchWord, inMemory, decide_eq_true_eq]
  split <;> rename_i h
  · exact ⟨fun e => by simp at e, fun e => by omega⟩
  · exact ⟨fun _ => by omega, fun _ => rfl⟩

/-- The memory after `reset()` is canonical, whatever the fonts. -/
theorem fontMemory_wf (p : Params) : (fontMemory p).wf := by
  unfold fontMemory
  apply memSetAll_wf
  · apply memSetAll_wf (by decide)
    simp [Config.memSize]
  · simp [Config.memSize]

end Sys2Proof.Machine
end

