-- ==== Sys2Proof/Laws/Ops.lean ====
section
/-! SUPPORT. What each shared operation can do, said once: checked reads and stores, draws, the fetch, an executed
instruction, an inner step, and the engine's step (spec/40_execution_cycle.md R102; spec/60_exceptions.md R244). -/

namespace Sys2Proof.Machine

set_option Elab.async false

/-! ### Checked accesses -/

/-- R63: a read that stays in memory, or is empty, completes with the bytes read. -/
theorem withRead_of_fits (i : Instr) {addr : Addr} {n : Nat} (s : State) (k : List Byte → State)
    (h : n = 0 ∨ addr.toNat + n ≤ Config.memSize) :
    withRead i addr n s k = done (k ((List.range n).map fun j => memGet s.mem (addr.toNat + j))) := by
  have := (memRead_eq_some (m := s.mem) (addr := addr)).2 ⟨h, rfl⟩
  simp only [withRead, this]

/-- R63, R241: a read past the end of memory raises F2. -/
theorem withRead_of_overruns (i : Instr) {addr : Addr} {n : Nat} (s : State) (k : List Byte → State)
    (h0 : n ≠ 0) (h : Config.memSize < addr.toNat + n) :
    withRead i addr n s k = .next (s.raise (.memReadOutOfRange addr n s.pc (some (firstWord i)))) := by
  have := (memRead_eq_none (m := s.mem) (addr := addr)).2 ⟨h0, h⟩
  simp only [withRead, this]

/-- R62: a store that stays in memory completes with the bytes stored. -/
theorem withWrite_of_fits (i : Instr) {addr : Addr} {bs : List Byte} (s : State) (k : State → State)
    (h : addr.toNat + bs.length ≤ Config.memSize) :
    withWrite i addr bs s k = done (k { s with mem := memSetAll s.mem addr.toNat bs }) := by
  have := (memWrite_eq_some (m := s.mem) (addr := addr)).2 ⟨h, rfl⟩
  simp only [withWrite, this]

/-- R62, R241: a store past the end of memory raises F1. -/
theorem withWrite_of_overruns (i : Instr) {addr : Addr} {bs : List Byte} (s : State) (k : State → State)
    (h : Config.memSize < addr.toNat + bs.length) :
    withWrite i addr bs s k = .next (s.raise (.memoryOverflow addr bs.length s.pc (some (firstWord i)))) := by
  have := (memWrite_eq_none (m := s.mem) (addr := addr)).2 h
  simp only [withWrite, this]

/-- R63: the two ends of a checked read. -/
theorem withRead_cases {i : Instr} {addr : Addr} {n : Nat} {s t : State} {k : List Byte → State}
    (h : withRead i addr n s k = .next t) :
    t = s.raise (.memReadOutOfRange addr n s.pc (some (firstWord i))) ∨ ∃ bs, t = (k bs).retire := by
  unfold withRead at h
  split at h <;> cases h
  · exact .inl rfl
  · exact .inr ⟨_, rfl⟩

/-- R62: the two ends of a checked store. -/
theorem withWrite_cases {i : Instr} {addr : Addr} {bs : List Byte} {s t : State} {k : State → State}
    (h : withWrite i addr bs s k = .next t) :
    t = s.raise (.memoryOverflow addr bs.length s.pc (some (firstWord i))) ∨
      ∃ m, memWrite s.mem addr bs = some m ∧ t = (k { s with mem := m }).retire := by
  unfold withWrite at h
  split at h <;> cases h
  · exact .inl rfl
  · exact .inr ⟨_, ‹_›, rfl⟩

/-! ### Draws -/

/-- A draw changes the two planes and nothing else. -/
theorem drawPlanes_frame (s : State) (pixelsOf : List Byte → List (Nat × Nat)) (bs : List Byte) :
    (drawPlanes s pixelsOf bs).1 =
      { s with
        plane0 := (drawPlanes s pixelsOf bs).1.plane0
        plane1 := (drawPlanes s pixelsOf bs).1.plane1 } := by
  unfold drawPlanes
  split <;> rfl

/-- R191, R195, R197: what a draw does to each plane: a targeted plane has its own sprite's pixels toggled. -/
theorem drawPlanes_planes (s : State) (pixelsOf : List Byte → List (Nat × Nat)) (bs : List Byte) :
    let d := drawPlanes s pixelsOf bs
    let bs0 := if s.pmask = 3#2 then bs.take (bs.length / 2) else bs
    let bs1 := if s.pmask = 3#2 then bs.drop (bs.length / 2) else bs
    d.1.plane0 = (if s.pmask.getLsbD 0 then (xorPixels s.plane0 (pixelsOf bs0)).1 else s.plane0) ∧
    d.1.plane1 = (if s.pmask.getLsbD 1 then (xorPixels s.plane1 (pixelsOf bs1)).1 else s.plane1) ∧
    d.2 = ((s.pmask.getLsbD 0 && (xorPixels s.plane0 (pixelsOf bs0)).2) ||
      (s.pmask.getLsbD 1 && (xorPixels s.plane1 (pixelsOf bs1)).2)) := by
  have h : s.pmask = 0#2 ∨ s.pmask = 1#2 ∨ s.pmask = 2#2 ∨ s.pmask = 3#2 := by
    generalize s.pmask = p
    revert p
    decide
  rcases h with h | h | h | h <;> simp [drawPlanes, h]

/-- R102, R108, R198, R199: a draw that must wait stops the batch. -/
theorem drawInstr_waits (i : Instr) (n : Nat) (pixelsOf : List Byte → List (Nat × Nat)) {s : State}
    (h : s.drawMustWait = true) : drawInstr i n pixelsOf s = .next (s.stop .displayWait) := by
  simp [drawInstr, h]

/-- R102, R108, R198, R199: the three ends of a draw; the one that draws writes no register but VF. -/
theorem drawInstr_cases {i : Instr} {n : Nat} {pixelsOf : List Byte → List (Nat × Nat)} {s t : State}
    (h : drawInstr i n pixelsOf s = .next t) :
    (s.drawMustWait = true ∧ t = s.stop .displayWait) ∨
    t = s.raise (.memReadOutOfRange s.i (drawBytes s.pmask n) s.pc (some (firstWord i))) ∨
    (s.drawMustWait = false ∧ ∃ hit p0 p1, t = State.retire { s with
      v := (s.setCarry hit).v, plane0 := p0, plane1 := p1, pc := s.pc + 2#16, drawsInBatch := s.drawsInBatch + 1 }) := by
  unfold drawInstr at h
  split at h <;> rename_i hw
  · cases h
    exact .inl ⟨hw, rfl⟩
  · rcases withRead_cases h with h | ⟨bs, h⟩
    · exact .inr (.inl h)
    · dsimp only at h
      rw [drawPlanes_frame] at h
      exact .inr (.inr ⟨Bool.eq_false_iff.2 hw, _, _, _, h⟩)

/-! ### An executed instruction -/

/-- R109: an executed instruction's next state is counted. -/
theorem counted_retire {u t : State} (h : t = u) : Counted u t.retire := by
  subst h
  rfl

/-- What no instruction's execution changes, but for its end (`retire`, `stop`, `raise`). -/
structure Keeps (s u : State) : Prop where
  fatal : u.fatal = s.fatal
  executed : u.executed = s.executed
  batchLeft : u.batchLeft = s.batchLeft
  outcome : u.outcome = s.outcome
  dialect : u.dialect = s.dialect
  quirks : u.quirks = s.quirks
  ipsBase : u.ipsBase = s.ipsBase
  params : u.params = s.params
  ktick : u.ktick = s.ktick

/-- Which instructions stop the batch, and with what (R105, R107, R108). -/
inductive Stops (s : State) : Instr → List Event → StepOutcome → Prop where
  | exit : Stops s .exit [.exited] .exit
  | loop (nnn : BitVec 12) (h : addrOf nnn = s.pc) : Stops s (.jp nnn) [.loopDetected] .loop
  | drw (x y : RegIdx) (n : BitVec 4) (h : s.drawMustWait = true) : Stops s (.drw x y n) [] .displayWait
  | drw16 (x y : RegIdx) (h : s.drawMustWait = true) : Stops s (.drw16 x y) [] .displayWait

/-- The three ends of an instruction `i` at `s` (R102): completed, stopped, or failed. -/
inductive Ends (i : Instr) (s : State) : State → Prop where
  | completed (u : State) (keeps : Keeps s u) : Ends i s u.retire
  | stopped (evs : List Event) (o : StepOutcome) (stops : Stops s i evs o) :
    Ends i s ({ s with events := s.events ++ evs }.stop o)
  | failed (e : FatalError) : Ends i s (s.raise e)

theorem withRead_ends (i : Instr) (addr : Addr) (n : Nat) (s : State) (k : List Byte → State)
    (hk : ∀ bs, Keeps s (k bs)) : ∃ t, withRead i addr n s k = .next t ∧ Ends i s t := by
  unfold withRead
  split
  · exact ⟨_, rfl, .failed _⟩
  · exact ⟨_, rfl, .completed _ (hk _)⟩

theorem withWrite_ends (i : Instr) (addr : Addr) (bs : List Byte) (s : State) (k : State → State)
    (hk : ∀ m, Keeps s (k { s with mem := m })) : ∃ t, withWrite i addr bs s k = .next t ∧ Ends i s t := by
  unfold withWrite
  split
  · exact ⟨_, rfl, .failed _⟩
  · exact ⟨_, rfl, .completed _ (hk _)⟩

theorem drawInstr_ends (i : Instr) (n : Nat) (pixelsOf : List Byte → List (Nat × Nat)) (s : State)
    (hi : s.drawMustWait = true → Stops s i [] .displayWait) :
    ∃ t, drawInstr i n pixelsOf s = .next t ∧ Ends i s t := by
  unfold drawInstr
  split
  · refine ⟨_, rfl, ?_⟩
    simpa using Ends.stopped (i := i) (s := s) [] .displayWait (hi ‹_›)
  · refine withRead_ends _ _ _ _ _ fun bs => ?_
    have h := drawPlanes_frame s pixelsOf bs
    constructor <;> simp only [State.advance_fatal, State.advance_executed, State.advance_batchLeft,
      State.advance_outcome, State.advance_dialect, State.advance_quirks, State.advance_ipsBase, State.advance_params,
      State.advance_ktick, State.setCarry_fatal, State.setCarry_executed, State.setCarry_batchLeft,
      State.setCarry_outcome, State.setCarry_dialect, State.setCarry_quirks, State.setCarry_ipsBase,
      State.setCarry_params, State.setCarry_ktick] <;> rw [h]

/-- R102, R104, R109, R111: every instruction answers a next state, in which it has completed, stopped the batch or
raised a fatal error. -/
theorem exec_ends (i : Instr) (s : State) : ∃ t, exec i s = .next t ∧ Ends i s t := by
  have ok : ∀ u, Keeps s u → ∃ t, done u = .next t ∧ Ends i s t := fun u h => ⟨_, rfl, .completed u h⟩
  have stop : ∀ ev o, Stops s i [ev] o →
      ∃ t, Host.Outcome.next (φ := Fault) (ρ := Refusal) ((s.emit ev).stop o) = .next t ∧ Ends i s t :=
    fun ev o h => ⟨_, rfl, .stopped [ev] o h⟩
  have fail : ∀ e, ∃ t, Host.Outcome.next (φ := Fault) (ρ := Refusal) (s.raise e) = .next t ∧ Ends i s t :=
    fun e => ⟨_, rfl, .failed e⟩
  cases i with
  | exit => exact stop _ _ .exit
  | jp nnn =>
    simp only [exec, execJp]
    split
    · exact stop _ _ (.loop nnn ‹_›)
    · exact ok _ (by constructor <;> simp)
  | call nnn =>
    simp only [exec, execCall]
    split
    · exact fail _
    · exact ok _ (by constructor <;> simp)
  | ret =>
    simp only [exec, execRet]
    split
    · exact fail _
    · exact ok _ (by constructor <;> simp)
  | drw x y n => exact drawInstr_ends _ _ _ _ (.drw x y n)
  | drw16 x y => exact drawInstr_ends _ _ _ _ (.drw16 x y)
  | plane n =>
    simp only [exec, execPlane]
    split
    · exact fail _
    · exact ok _ (by constructor <;> simp)
  | skp x =>
    simp only [exec, execSkp]
    split
    · exact fail _
    · exact ok _ (by constructor <;> simp)
  | sknp x =>
    simp only [exec, execSknp]
    split
    · exact fail _
    · exact ok _ (by constructor <;> simp)
  | ldKey x =>
    simp only [exec, execLdKey]
    split
    · exact ok _ (by constructor <;> simp)
    · exact ok _ (by constructor <;> rfl)
  | addI x =>
    simp only [exec, execAddI]
    split <;> exact ok _ (by constructor <;> simp)
  | srgf x =>
    simp only [exec, execSrgf]
    split
    · exact fail _
    · exact ok _ (by constructor <;> simp)
  | lrgf x =>
    simp only [exec, execLrgf]
    split
    · exact fail _
    · exact ok _ (by constructor <;> simp)
  | bcd x => exact withWrite_ends _ _ _ _ _ fun m => by constructor <;> simp
  | ldMemV x =>
    simp only [exec, execLdMemV]
    exact withWrite_ends _ _ _ _ _ fun m => by constructor <;> simp
  | save x y => exact withWrite_ends _ _ _ _ _ fun m => by constructor <;> simp
  | ldVMem x => exact withRead_ends _ _ _ _ _ fun bs => by constructor <;> simp
  | load x y => exact withRead_ends _ _ _ _ _ fun bs => by constructor <;> simp
  | audio => exact withRead_ends _ _ _ _ _ fun bs => by constructor <;> simp
  | _ => exact ok _ (by constructor <;> simp)

/-- No instruction faults or is refused. -/
theorem exec_next (i : Instr) (s : State) : ∃ t, exec i s = .next t := (exec_ends i s).imp fun _ h => h.1

/-! ### Steps -/

/-- R102, R246: what an inner step does. -/
theorem innerStep_cases (s : State) :
    (∃ e, fetchInstr s = .fatal e ∧ innerStep s = .next (s.raise e)) ∨
    (fetchInstr s = .bad ∧ innerStep s = .next (s.stop .badOpCode)) ∨
    (∃ i, fetchInstr s = .instr i ∧ innerStep s = exec i s) := by
  unfold innerStep
  split
  · exact .inl ⟨_, ‹_›, rfl⟩
  · exact .inr (.inl ⟨‹_›, rfl⟩)
  · exact .inr (.inr ⟨_, ‹_›, rfl⟩)

/-- An inner step always answers a next state. -/
theorem innerStep_next (s : State) : ∃ t, innerStep s = .next t := by
  rcases innerStep_cases s with ⟨e, -, h⟩ | ⟨-, h⟩ | ⟨i, -, h⟩
  · exact ⟨_, h⟩
  · exact ⟨_, h⟩
  · rw [h]
    exact exec_next i s

/-- R101: N, said twice: by the machine and by the statements. -/
theorem batchLimit_eq (s : State) : batchLimit s = batchSize s := by
  simp only [batchLimit, batchSize]
  cases s.dialect <;> rfl

/-- R100: in an open batch a step is an inner step. -/
theorem step_of_openBatch {s : State} (hf : s.fatal = none) (hb : 0 < s.batchLeft) : step s = innerStep s := by
  simp [step, engineStep, hf, Nat.pos_iff_ne_zero.1 hb]

/-- R260: between two batches a step is the host's action. -/
theorem step_of_act {s : State} {a : HostAction} {rest : List HostCall} (h : HostActsNext s (some a) rest) :
    step s = .next (hostAct a { s with inputs := rest }) := by
  obtain ⟨h0, h1⟩ := h
  simp only at h1
  simp [step, engineStep, betweenBatches, h0, h1]

/-- R100, R260: between two batches a call of `step()` opens a batch. -/
theorem step_of_call {s : State} {rest : List HostCall} (h : HostActsNext s none rest) :
    step s = callStep { s with inputs := rest } := by
  obtain ⟨h0, h1 | ⟨h1, rfl⟩⟩ := h
  · simp [step, engineStep, betweenBatches, h0, h1]
  · rw [step, engineStep, if_pos h0, betweenBatches, h1]
    cases s
    simp_all

/-- R100, R245, R260: everything a step can do. -/
theorem step_cases (s : State) :
    (0 < s.batchLeft ∧ s.fatal = none ∧ step s = innerStep s) ∨
    (0 < s.batchLeft ∧ ∃ e, s.fatal = some e ∧ step s = .fault (.sessionOver e)) ∨
    (s.batchLeft = 0 ∧ ∃ a rest, s.inputs = .act a :: rest ∧ step s = .next (hostAct a { s with inputs := rest })) ∨
    (s.batchLeft = 0 ∧ ∃ rest, (s.inputs = .step :: rest ∨ (s.inputs = [] ∧ rest = [])) ∧
      ((∃ e, s.fatal = some e ∧ step s = .fault (.sessionOver e)) ∨
        (s.fatal = none ∧ batchSize s = 0 ∧ step s = .next (openBatch { s with inputs := rest })) ∨
        (s.fatal = none ∧ 0 < batchSize s ∧ step s = innerStep (openBatch { s with inputs := rest })))) := by
  have call : ∀ u : State, u.fatal = s.fatal → batchSize u = batchSize s →
      (∃ e, s.fatal = some e ∧ callStep u = .fault (.sessionOver e)) ∨
      (s.fatal = none ∧ batchSize s = 0 ∧ callStep u = .next (openBatch u)) ∨
      (s.fatal = none ∧ 0 < batchSize s ∧ callStep u = innerStep (openBatch u)) := by
    intro u hf hb
    simp only [callStep, hf, hb]
    cases s.fatal with
    | some e => exact .inl ⟨e, rfl, rfl⟩
    | none =>
      by_cases h : batchSize s = 0
      · exact .inr (.inl ⟨rfl, h, by simp [h]⟩)
      · exact .inr (.inr ⟨rfl, by omega, by simp [h]⟩)
  by_cases h : s.batchLeft = 0
  · rcases hi : s.inputs with _ | ⟨_ | a, rest⟩
    · refine .inr (.inr (.inr ⟨h, [], by simp, ?_⟩))
      have e : ({ s with inputs := [] } : State) = s := by rw [← hi]
      have hs : step s = callStep s := by simp [step, engineStep, betweenBatches, h, hi]
      rw [hs, e]
      exact call s rfl rfl
    · refine .inr (.inr (.inr ⟨h, rest, by simp, ?_⟩))
      simpa [step, engineStep, betweenBatches, h, hi] using call { s with inputs := rest } rfl rfl
    · exact .inr (.inr (.inl ⟨h, a, rest, rfl, by simp [step, engineStep, betweenBatches, h, hi]⟩))
  · cases hf : s.fatal with
    | none => exact .inl ⟨by omega, rfl, by simp [step, engineStep, h, hf]⟩
    | some e => exact .inr (.inl ⟨by omega, e, rfl, by simp [step, engineStep, h, hf]⟩)

end Sys2Proof.Machine
end

