-- ==== Sys2Proof/Laws/PerInstr.lean ====
section
/-! SUPPORT. The per-instruction family `Encoding`: the first word the encoder writes for a well-formed instruction
decodes, under `SYS_IS_NOP`, to that instruction with every operand (spec/30_encoding.md R85, R96). -/

namespace Sys2Proof.Laws.Encoding

set_option Elab.async false

/-- What the first word of an instruction decodes to. -/
def expected : Instr → FirstWord
  | .ldILong _ => .ldILong
  | i => .instr i

def Statement (i : Instr) : Prop := i.wellFormed = true → decodeWord true (firstWord i) = expected i

theorem cls : Statement (.cls) := by
  intro _
  rfl

theorem ret : Statement (.ret) := by
  intro _
  rfl

theorem scd (n : BitVec 4) : Statement (.scd n) := by
  intro _
  revert n
  decide

theorem scu (n : BitVec 4) : Statement (.scu n) := by
  intro _
  revert n
  decide

theorem scr : Statement (.scr) := by
  intro _
  rfl

theorem scl : Statement (.scl) := by
  intro _
  rfl

theorem exit : Statement (.exit) := by
  intro _
  rfl

theorem low : Statement (.low) := by
  intro _
  rfl

theorem high : Statement (.high) := by
  intro _
  rfl

theorem sys (nnn : BitVec 12) : Statement (.sys nnn) := by
  intro h
  simp only [Instr.wellFormed, groupZeroFixed, Bool.not_eq_true', Bool.or_eq_false_iff, decide_eq_false_iff_not] at h
  obtain ⟨⟨⟨⟨⟨⟨⟨⟨h1, h2⟩, h3⟩, h4⟩, h5⟩, h6⟩, h7⟩, h8⟩, h9⟩ := h
  simp [decodeWord, firstWord, expected, decodeGroup0, *]

theorem jp (nnn : BitVec 12) : Statement (.jp nnn) := by
  intro _
  simp [decodeWord, firstWord, expected]

theorem call (nnn : BitVec 12) : Statement (.call nnn) := by
  intro _
  simp [decodeWord, firstWord, expected]

theorem seK (x : RegIdx) (kk : Byte) : Statement (.seK x kk) := by
  intro _
  simp [decodeWord, firstWord, expected]

theorem sneK (x : RegIdx) (kk : Byte) : Statement (.sneK x kk) := by
  intro _
  simp [decodeWord, firstWord, expected]

theorem seR (x y : RegIdx) : Statement (.seR x y) := by
  intro _
  simp [decodeWord, firstWord, expected, decodeGroup5]

theorem save (x y : RegIdx) : Statement (.save x y) := by
  intro _
  simp [decodeWord, firstWord, expected, decodeGroup5]

theorem load (x y : RegIdx) : Statement (.load x y) := by
  intro _
  simp [decodeWord, firstWord, expected, decodeGroup5]

theorem ldK (x : RegIdx) (kk : Byte) : Statement (.ldK x kk) := by
  intro _
  simp [decodeWord, firstWord, expected]

theorem addK (x : RegIdx) (kk : Byte) : Statement (.addK x kk) := by
  intro _
  simp [decodeWord, firstWord, expected]

theorem ldR (x y : RegIdx) : Statement (.ldR x y) := by
  intro _
  simp [decodeWord, firstWord, expected, decodeGroup8]

theorem or (x y : RegIdx) : Statement (.or x y) := by
  intro _
  simp [decodeWord, firstWord, expected, decodeGroup8]

theorem and (x y : RegIdx) : Statement (.and x y) := by
  intro _
  simp [decodeWord, firstWord, expected, decodeGroup8]

theorem xor (x y : RegIdx) : Statement (.xor x y) := by
  intro _
  simp [decodeWord, firstWord, expected, decodeGroup8]

theorem addR (x y : RegIdx) : Statement (.addR x y) := by
  intro _
  simp [decodeWord, firstWord, expected, decodeGroup8]

theorem sub (x y : RegIdx) : Statement (.sub x y) := by
  intro _
  simp [decodeWord, firstWord, expected, decodeGroup8]

theorem shr (x y : RegIdx) : Statement (.shr x y) := by
  intro _
  simp [decodeWord, firstWord, expected, decodeGroup8]

theorem subn (x y : RegIdx) : Statement (.subn x y) := by
  intro _
  simp [decodeWord, firstWord, expected, decodeGroup8]

theorem shl (x y : RegIdx) : Statement (.shl x y) := by
  intro _
  simp [decodeWord, firstWord, expected, decodeGroup8]

theorem sneR (x y : RegIdx) : Statement (.sneR x y) := by
  intro _
  simp [decodeWord, firstWord, expected]

theorem ldI (nnn : BitVec 12) : Statement (.ldI nnn) := by
  intro _
  simp [decodeWord, firstWord, expected]

theorem jpV0 (nnn : BitVec 12) : Statement (.jpV0 nnn) := by
  intro _
  simp [decodeWord, firstWord, expected]

theorem rnd (x : RegIdx) (kk : Byte) : Statement (.rnd x kk) := by
  intro _
  simp [decodeWord, firstWord, expected]

theorem drw (x y : RegIdx) (n : BitVec 4) : Statement (.drw x y n) := by
  intro h
  simp only [Instr.wellFormed, decide_eq_true_eq] at h
  simp [decodeWord, firstWord, expected, h]

theorem drw16 (x y : RegIdx) : Statement (.drw16 x y) := by
  intro _
  simp [decodeWord, firstWord, expected]

theorem skp (x : RegIdx) : Statement (.skp x) := by
  intro _
  simp [decodeWord, firstWord, expected, decodeGroupE]

theorem sknp (x : RegIdx) : Statement (.sknp x) := by
  intro _
  simp [decodeWord, firstWord, expected, decodeGroupE]

theorem ldILong (nnnn : Word) : Statement (.ldILong nnnn) := by
  intro _
  show decodeWord true 0xF000#16 = .ldILong
  decide

theorem plane (n : BitVec 4) : Statement (.plane n) := by
  intro _
  simp [decodeWord, firstWord, expected, decodeGroupF]

theorem audio : Statement (.audio) := by
  intro _
  rfl

theorem ldVxDt (x : RegIdx) : Statement (.ldVxDt x) := by
  intro _
  simp [decodeWord, firstWord, expected, decodeGroupF]

theorem ldKey (x : RegIdx) : Statement (.ldKey x) := by
  intro _
  simp [decodeWord, firstWord, expected, decodeGroupF]

theorem ldDt (x : RegIdx) : Statement (.ldDt x) := by
  intro _
  simp [decodeWord, firstWord, expected, decodeGroupF]

theorem ldSt (x : RegIdx) : Statement (.ldSt x) := by
  intro _
  simp [decodeWord, firstWord, expected, decodeGroupF]

theorem addI (x : RegIdx) : Statement (.addI x) := by
  intro _
  simp [decodeWord, firstWord, expected, decodeGroupF]

theorem ldF (x : RegIdx) : Statement (.ldF x) := by
  intro _
  simp [decodeWord, firstWord, expected, decodeGroupF]

theorem ldHf (x : RegIdx) : Statement (.ldHf x) := by
  intro _
  simp [decodeWord, firstWord, expected, decodeGroupF]

theorem bcd (x : RegIdx) : Statement (.bcd x) := by
  intro _
  simp [decodeWord, firstWord, expected, decodeGroupF]

theorem pitch (x : RegIdx) : Statement (.pitch x) := by
  intro _
  simp [decodeWord, firstWord, expected, decodeGroupF]

theorem ldMemV (x : RegIdx) : Statement (.ldMemV x) := by
  intro _
  simp [decodeWord, firstWord, expected, decodeGroupF]

theorem ldVMem (x : RegIdx) : Statement (.ldVMem x) := by
  intro _
  simp [decodeWord, firstWord, expected, decodeGroupF]

theorem srgf (x : RegIdx) : Statement (.srgf x) := by
  intro _
  simp [decodeWord, firstWord, expected, decodeGroupF]

theorem lrgf (x : RegIdx) : Statement (.lrgf x) := by
  intro _
  simp [decodeWord, firstWord, expected, decodeGroupF]

end Sys2Proof.Laws.Encoding
end

