-- ==== Sys2Proof/Tests/Slice0.lean ====
section
/-! SUPPORT. The model's own tests: ill-formed terms, words written out from spec/30_encoding.md R85 and the vectors of
spec/95_test_vectors.md (cited by their ids), and for each statement with hypotheses a witness that meets them. -/

namespace Sys2Proof.Tests

open Sys2Proof Sys2Proof.Machine

set_option Elab.async false

/-! ### Helpers -/

/-- The reset state with the words `ws` at 0x200 and a batch of 10 open. -/
def prog (ws : List Word) : State :=
  { State.reset with mem := memSetAll [] 0x200 (ws.flatMap bytesOfWord), batchLeft := 10 }

/-- The state with V[x] set to each byte of the list. -/
def withV (s : State) (l : List (RegIdx × Byte)) : State := l.foldl (fun s q => s.setV q.1 q.2) s

/-- The state with the toggles replaced. -/
def withQ (s : State) (f : Quirks → Quirks) : State := { s with quirks := f s.quirks }

/-- What `f` reads from the next state; `none` for a fault or a refusal. -/
def after {α : Type} (r : Result) (f : State → α) : Option α :=
  match r with
  | .next t => some (f t)
  | _ => none

/-- The plane with exactly the given pixels set. -/
def dots (l : List (Nat × Nat)) : Plane := l.foldl (fun p q => p.flip q.1 q.2) Plane.clear

/-! ### WellFormed -/

/-- R85: `DRW` with n = 0 is the 16 x 16 form, so no term of the plain one. -/
theorem test_wellFormed_refuses_drw_height_0 : (Instr.drw 1#4 2#4 0#4).wellFormed = false := by decide

/-- R87, R91: a fixed 0-group word is no `SYS`. -/
theorem test_wellFormed_refuses_sys_of_fixed_words :
    [0x0C0#12, 0x0CF#12, 0x0D0#12, 0x0DF#12, 0x0E0#12, 0x0EE#12, 0x0FB#12, 0x0FC#12, 0x0FD#12, 0x0FE#12, 0x0FF#12].all
      (fun nnn => !(Instr.sys nnn).wellFormed) = true := by decide

theorem test_wellFormed_accepts :
    (Instr.drw 1#4 2#4 15#4).wellFormed = true ∧ (Instr.sys 0x0FA#12).wellFormed = true := by decide

/-! ### Decoding (vectors of 95 §2.1) -/

theorem test_decode_group0 :
    decodeWord false 0x00E0#16 = .instr .cls ∧ decodeWord false 0x00EE#16 = .instr .ret ∧
    decodeWord false 0x00C0#16 = .instr (.scd 0#4) ∧ decodeWord false 0x00C5#16 = .instr (.scd 5#4) ∧
    decodeWord false 0x00D3#16 = .instr (.scu 3#4) ∧ decodeWord false 0x00FB#16 = .instr .scr ∧
    decodeWord false 0x00FC#16 = .instr .scl ∧ decodeWord false 0x00FD#16 = .instr .exit ∧
    decodeWord false 0x00FE#16 = .instr .low ∧ decodeWord false 0x00FF#16 = .instr .high := by decide

theorem test_decode_sys :
    decodeWord false 0x0000#16 = .fail ∧ decodeWord false 0x0123#16 = .fail ∧ decodeWord false 0x00FA#16 = .fail ∧
    decodeWord true 0x0000#16 = .instr (.sys 0#12) ∧ decodeWord true 0x0123#16 = .instr (.sys 0x123#12) := by decide

theorem test_decode_control :
    decodeWord false 0x1ABC#16 = .instr (.jp 0xABC#12) ∧ decodeWord false 0x2300#16 = .instr (.call 0x300#12) ∧
    decodeWord false 0x3307#16 = .instr (.seK 3#4 7#8) ∧ decodeWord false 0x4308#16 = .instr (.sneK 3#4 8#8) ∧
    decodeWord false 0x5120#16 = .instr (.seR 1#4 2#4) ∧ decodeWord false 0x9120#16 = .instr (.sneR 1#4 2#4) ∧
    decodeWord false 0xB123#16 = .instr (.jpV0 0x123#12) := by decide

theorem test_decode_arithmetic :
    decodeWord false 0x6A3F#16 = .instr (.ldK 0xA#4 0x3F#8) ∧ decodeWord false 0x7305#16 = .instr (.addK 3#4 5#8) ∧
    decodeWord false 0x8120#16 = .instr (.ldR 1#4 2#4) ∧ decodeWord false 0x8121#16 = .instr (.or 1#4 2#4) ∧
    decodeWord false 0x8122#16 = .instr (.and 1#4 2#4) ∧ decodeWord false 0x8123#16 = .instr (.xor 1#4 2#4) ∧
    decodeWord false 0x8124#16 = .instr (.addR 1#4 2#4) ∧ decodeWord false 0x8125#16 = .instr (.sub 1#4 2#4) ∧
    decodeWord false 0x8126#16 = .instr (.shr 1#4 2#4) ∧ decodeWord false 0x8127#16 = .instr (.subn 1#4 2#4) ∧
    decodeWord false 0x800E#16 = .instr (.shl 0#4 0#4) ∧ decodeWord false 0xC30F#16 = .instr (.rnd 3#4 0x0F#8) := by
  decide

theorem test_decode_memory :
    decodeWord false 0xAFFF#16 = .instr (.ldI 0xFFF#12) ∧ decodeWord false 0xF000#16 = .ldILong ∧
    decodeWord false 0xF01E#16 = .instr (.addI 0#4) ∧ decodeWord false 0xF229#16 = .instr (.ldF 2#4) ∧
    decodeWord false 0xF230#16 = .instr (.ldHf 2#4) ∧ decodeWord false 0xF233#16 = .instr (.bcd 2#4) ∧
    decodeWord false 0xF155#16 = .instr (.ldMemV 1#4) ∧ decodeWord false 0xF165#16 = .instr (.ldVMem 1#4) ∧
    decodeWord false 0x5122#16 = .instr (.save 1#4 2#4) ∧ decodeWord false 0x5123#16 = .instr (.load 1#4 2#4) ∧
    decodeWord false 0xF275#16 = .instr (.srgf 2#4) ∧ decodeWord false 0xF285#16 = .instr (.lrgf 2#4) := by decide

theorem test_decode_timers_keypad_display_audio :
    decodeWord false 0xF107#16 = .instr (.ldVxDt 1#4) ∧ decodeWord false 0xF115#16 = .instr (.ldDt 1#4) ∧
    decodeWord false 0xF218#16 = .instr (.ldSt 2#4) ∧ decodeWord false 0xF30A#16 = .instr (.ldKey 3#4) ∧
    decodeWord false 0xE19E#16 = .instr (.skp 1#4) ∧ decodeWord false 0xE1A1#16 = .instr (.sknp 1#4) ∧
    decodeWord false 0xD12F#16 = .instr (.drw 1#4 2#4 15#4) ∧ decodeWord false 0xD120#16 = .instr (.drw16 1#4 2#4) ∧
    decodeWord false 0xF401#16 = .instr (.plane 4#4) ∧ decodeWord false 0xF002#16 = .instr .audio ∧
    decodeWord false 0xF33A#16 = .instr (.pitch 3#4) := by decide

theorem test_decode_illegal :
    [0x5121#16, 0x5124#16, 0x8008#16, 0x800F#16, 0x9121#16, 0xE100#16, 0xF100#16, 0xF102#16, 0xF0FF#16].all
      (fun w => decodeWord true w = .fail) = true := by decide

/-- R64, R80, R92: bytes are big-endian, and the second word of `LD I, long` follows the first. -/
theorem test_decode_bytes :
    decode false [0x6A#8, 0x3F#8, 0x12#8] = .ok (.ldK 0xA#4 0x3F#8, [0x12#8]) ∧
    decode false [0xF0#8, 0x00#8, 0xAB#8, 0xCD#8] = .ok (.ldILong 0xABCD#16, []) ∧
    decode false [0xF0#8, 0x00#8, 0xAB#8] = .error .secondWordMissing ∧
    decode false [0xF0#8] = .error .wordMissing := by decide

/-- The table's words, and the first step after reset with one of them placed. -/
theorem test_decodeTableWord :
    decodeTableWord 16 0x6A3F = some (.ldK 0xA#4 0x3F#8) ∧ decodeTableWord 16 0x0000 = some (.sys 0#12) ∧
    decodeTableWord 16 0xF000 = some (.ldILong 0#16) ∧ decodeTableWord 32 0xABCDF000 = some (.ldILong 0xABCD#16) ∧
    decodeTableWord 16 0x5121 = none := by decide +kernel

theorem test_withFetchWord_runs_first :
    after (step (State.reset.withFetchWord 16 0x6A3F)) (fun t => (t.getV 0xA#4, t.pc)) = some (0x3F#8, 0x202#16) ∧
    after (step (State.reset.withFetchWord 16 0x0123)) (fun t => (t.pc, t.executed)) = some (0x202#16, 1) := by
  decide +kernel

/-! ### Control flow (95 §2.2, §2.3) -/

theorem test_jp : after (step (prog [0x1ABC#16])) (fun t => t.pc) = some 0xABC#16 := by decide +kernel

/-- S10 -/
theorem test_jp_self :
    after (step (prog [0x1200#16])) (fun t => (t.pc, t.outcome, t.events, t.executed)) =
      some (0x200#16, some .loop, [.loopDetected], 0) := by decide +kernel

/-- K1, K2 -/
theorem test_call :
    after (step { prog [0x2300#16] with stack := List.replicate 15 0#16 }) (fun t => (t.stack.head?, t.stack.length, t.pc)) =
      some (some 0x202#16, 16, 0x300#16) ∧
    after (step { prog [0x2300#16] with stack := List.replicate 16 0#16 }) (fun t => (t.fatal, t.stack.length, t.pc)) =
      some (some (.stackFull 0x200#16 0x2300#16), 16, 0x200#16) := by decide +kernel

/-- K3, K4 -/
theorem test_ret :
    after (step { prog [0x00EE#16] with stack := [0x40A#16, 0x202#16] }) (fun t => (t.stack, t.pc)) =
      some ([0x202#16], 0x40A#16) ∧
    after (step (prog [0x00EE#16])) (fun t => t.fatal) = some (some (.stackEmpty 0x200#16 0x00EE#16)) := by
  decide +kernel

/-- K5, K6, K7 -/
theorem test_jpV0 :
    after (step (withV (prog [0xBFFF#16]) [(0#4, 0xFF#8)])) (fun t => t.pc) = some 0x10FE#16 ∧
    after (step (withQ (withV (prog [0xB200#16]) [(0#4, 0x50#8), (2#4, 1#8)]) fun q => { q with jumpVx := true }))
      (fun t => t.pc) = some 0x201#16 ∧
    after (step (withV (prog [0xB200#16]) [(0#4, 0x50#8), (2#4, 1#8)])) (fun t => t.pc) = some 0x250#16 := by
  decide +kernel

/-- K8, K9 -/
theorem test_seK :
    after (step (withV (prog [0x3307#16]) [(3#4, 7#8)])) (fun t => t.pc) = some 0x204#16 ∧
    after (step (withV (prog [0x3308#16]) [(3#4, 7#8)])) (fun t => t.pc) = some 0x202#16 := by decide +kernel

/-- K10 -/
theorem test_sneK : after (step (withV (prog [0x4308#16]) [(3#4, 7#8)])) (fun t => t.pc) = some 0x204#16 := by
  decide +kernel

/-- K11 -/
theorem test_seR : after (step (withV (prog [0x5120#16]) [(3#4, 7#8)])) (fun t => t.pc) = some 0x204#16 := by
  decide +kernel

/-- K13 and the example of R127 -/
theorem test_sneR :
    after (step (prog [0x9110#16])) (fun t => t.pc) = some 0x202#16 ∧
    after (step (withV (prog [0x9120#16]) [(1#4, 1#8), (2#4, 2#8)])) (fun t => t.pc) = some 0x204#16 := by
  decide +kernel

/-- X5 -/
theorem test_exit :
    after (step (prog [0x00FD#16])) (fun t => (t.outcome, t.pc, t.events, t.executed)) =
      some (some .exit, 0x200#16, [.exited], 0) := by decide +kernel

/-- R129 -/
theorem test_sys :
    after (step { prog [0x0123#16] with params := { suggestedParams with sysIsNop := true } })
      (fun t => (t.pc, t.executed)) = some (0x202#16, 1) := by decide +kernel

/-- X6 -/
theorem test_badOpCode :
    after (step (prog [0xFFFF#16])) (fun t => (t.outcome, t.pc, t.events)) =
      some (some .badOpCode, 0x200#16, []) := by decide +kernel

/-- K16 -/
theorem test_fetch_past_memory :
    after (step { prog [] with pc := 0xFFF#16 }) (fun t => t.fatal) =
      some (some (.memReadOutOfRange 0xFFF#16 2 0xFFF#16 none)) := by decide +kernel

/-! ### Arithmetic (95 §1, §2.4) -/

/-- A1 -/
theorem test_ldK : after (step (prog [0x6F12#16])) (fun t => t.getV 15#4) = some 0x12#8 := by decide +kernel

/-- A2, A3 -/
theorem test_addK :
    after (step (withV (prog [0x7305#16]) [(3#4, 0xFE#8), (15#4, 5#8)])) (fun t => (t.getV 3#4, t.getV 15#4)) =
      some (0x03#8, 5#8) ∧
    after (step (withV (prog [0x7F01#16]) [(15#4, 0xFF#8)])) (fun t => t.getV 15#4) = some 0#8 := by decide +kernel

theorem test_ldR :
    after (step (withV (prog [0x8230#16]) [(3#4, 9#8)])) (fun t => (t.getV 2#4, t.getV 3#4)) = some (9#8, 9#8) := by
  decide +kernel

/-- Example of R143 -/
theorem test_or :
    after (step (withV (prog [0x8121#16]) [(1#4, 0x0F#8), (2#4, 0xF0#8), (15#4, 1#8)]))
      (fun t => (t.getV 1#4, t.getV 15#4)) = some (0xFF#8, 0#8) := by decide +kernel

/-- A5 -/
theorem test_and :
    after (step (withQ (withV (prog [0x8122#16]) [(1#4, 0x0F#8), (2#4, 0xF0#8), (15#4, 1#8)]) fun q =>
      { q with vfReset := false })) (fun t => (t.getV 1#4, t.getV 15#4)) = some (0#8, 1#8) := by decide +kernel

/-- A7 -/
theorem test_xor :
    after (step (withV (prog [0x8113#16]) [(1#4, 0x55#8), (15#4, 1#8)])) (fun t => (t.getV 1#4, t.getV 15#4)) =
      some (0#8, 0#8) := by decide +kernel

/-- S5, A10 -/
theorem test_addR :
    after (step (withV (prog [0x8124#16]) [(1#4, 0xFF#8), (2#4, 2#8)])) (fun t => (t.getV 1#4, t.getV 15#4)) =
      some (1#8, 1#8) ∧
    after (step (withV (prog [0x8F24#16]) [(15#4, 0xFF#8), (2#4, 2#8)])) (fun t => t.getV 15#4) = some 1#8 := by
  decide +kernel

/-- S6, A11 -/
theorem test_sub :
    after (step (withV (prog [0x8125#16]) [(1#4, 5#8), (2#4, 5#8)])) (fun t => (t.getV 1#4, t.getV 15#4)) =
      some (0#8, 1#8) ∧
    after (step (withV (prog [0x8125#16]) [(1#4, 3#8), (2#4, 5#8)])) (fun t => (t.getV 1#4, t.getV 15#4)) =
      some (0xFE#8, 0#8) := by decide +kernel

/-- A14 -/
theorem test_subn :
    after (step (withV (prog [0x8127#16]) [(1#4, 3#8), (2#4, 5#8)])) (fun t => (t.getV 1#4, t.getV 15#4)) =
      some (2#8, 1#8) := by decide +kernel

/-- A16, A17 -/
theorem test_shr :
    after (step (withV (prog [0x8126#16]) [(2#4, 3#8)])) (fun t => (t.getV 1#4, t.getV 15#4)) = some (1#8, 1#8) ∧
    after (step (withQ (withV (prog [0x8126#16]) [(1#4, 0x80#8), (2#4, 3#8)]) fun q => { q with shiftY := false }))
      (fun t => (t.getV 1#4, t.getV 15#4)) = some (0x40#8, 0#8) := by decide +kernel

/-- A18, A20 -/
theorem test_shl :
    after (step (withQ (withV (prog [0x810E#16]) [(1#4, 0x80#8)]) fun q => { q with shiftY := false }))
      (fun t => (t.getV 1#4, t.getV 15#4)) = some (0#8, 1#8) ∧
    after (step (withV (prog [0x812E#16]) [(1#4, 1#8), (2#4, 0x40#8)])) (fun t => (t.getV 1#4, t.getV 15#4)) =
      some (0x80#8, 0#8) := by decide +kernel

/-- R151: the mask and the next draw; the drawn byte itself is free. -/
theorem test_rnd (r : Byte) (h : Config.randomByte 0 = r) :
    after (step (prog [0xC1F0#16])) (fun t => (t.getV 1#4, t.randDraws, t.pc)) = some (r &&& 0xF0#8, 1, 0x202#16) := by
  subst h
  rfl

/-! ### Index register and memory (95 §2.5) -/

/-- M1 -/
theorem test_ldI : after (step (prog [0xAFFF#16])) (fun t => t.i) = some 0x0FFF#16 := by decide +kernel

/-- M2, M4 -/
theorem test_ldILong :
    after (step (prog [0xF000#16, 0xABCD#16])) (fun t => (t.i, t.pc)) = some (0xABCD#16, 0x204#16) ∧
    after (step { prog [] with mem := memSetAll [] 0xFFE [0xF0#8, 0x00#8], pc := 0xFFE#16 })
      (fun t => (t.fatal, t.pc, t.i)) =
        some (some (.memReadOutOfRange 0x1000#16 2 0xFFE#16 (some 0xF000#16)), 0xFFE#16, 0#16) := by decide +kernel

/-- M5, M7 -/
theorem test_addI :
    after (step { withV (prog [0xF01E#16]) [(0#4, 2#8), (15#4, 7#8)] with i := 0xFFFF#16 })
      (fun t => (t.i, t.getV 15#4)) = some (1#16, 7#8) ∧
    after (step { withQ (withV (prog [0xF01E#16]) [(0#4, 2#8)]) (fun q => { q with addICarry := true }) with
      i := 0x0FFE#16 }) (fun t => (t.i, t.getV 15#4)) = some (0x1000#16, 1#8) := by decide +kernel

/-- M8 -/
theorem test_ldF : after (step (withV (prog [0xF029#16]) [(0#4, 0x1F#8)])) (fun t => t.i) = some 0x9B#16 := by
  decide +kernel

/-- M9, M10 -/
theorem test_ldHf :
    after (step (withV (prog [0xF030#16]) [(0#4, 0x09#8)])) (fun t => t.i) = some 0xFA#16 ∧
    after (step (withV (prog [0xF030#16]) [(0#4, 0x0F#8)])) (fun t => t.i) = some 0x136#16 := by decide +kernel

/-- M13, M14 -/
theorem test_bcd :
    after (step { withV (prog [0xF033#16]) [(0#4, 0xFF#8)] with i := 0xFFD#16 })
      (fun t => [memGet t.mem 0xFFD, memGet t.mem 0xFFE, memGet t.mem 0xFFF]) = some [2#8, 5#8, 5#8] ∧
    after (step { withV (prog [0xF033#16]) [(0#4, 0xFF#8)] with i := 0xFFE#16 })
      (fun t => (t.fatal, memGet t.mem 0xFFE)) =
        some (some (.memoryOverflow 0xFFE#16 3 0x200#16 (some 0xF033#16)), 0#8) := by decide +kernel

/-- Example of R166, and M16 -/
theorem test_ldMemV :
    after (step { withV (prog [0xF155#16]) [(0#4, 1#8), (1#4, 2#8)] with i := 0x300#16 })
      (fun t => (memGet t.mem 0x300, memGet t.mem 0x301, t.i)) = some (1#8, 2#8, 0x302#16) ∧
    after (step { withV (prog [0xFF55#16]) [(0#4, 1#8)] with i := 0xFF1#16 })
      (fun t => (t.fatal, memGet t.mem 0xFF1, t.i)) =
        some (some (.memoryOverflow 0xFF1#16 16 0x200#16 (some 0xFF55#16)), 0#8, 0xFF1#16) := by decide +kernel

/-- After the store of R166's example: the load; and M17 -/
theorem test_ldVMem :
    after (step { prog [0xF165#16, 0x1011#16] with i := 0x202#16 })
      (fun t => (t.getV 0#4, t.getV 1#4, t.getV 2#4, t.i)) = some (0x10#8, 0x11#8, 0#8, 0x204#16) ∧
    after (step { prog [0xF065#16] with i := 0x1000#16 }) (fun t => t.fatal) =
      some (some (.memReadOutOfRange 0x1000#16 1 0x200#16 (some 0xF065#16))) := by decide +kernel

/-- M19, M21 -/
theorem test_save :
    after (step { withV (prog [0x5312#16]) [(1#4, 0x11#8), (2#4, 0x22#8), (3#4, 0x33#8)] with i := 0x400#16 })
      (fun t => ([memGet t.mem 0x400, memGet t.mem 0x401, memGet t.mem 0x402], t.i)) =
        some ([0x33#8, 0x22#8, 0x11#8], 0x400#16) ∧
    after (step { prog [0x5452#16] with i := 0xFFF#16 }) (fun t => t.fatal) =
      some (some (.memoryOverflow 0xFFF#16 2 0x200#16 (some 0x5452#16))) := by decide +kernel

/-- M20, and a descending range -/
theorem test_load :
    after (step { prog [0x5133#16, 0x3322#16, 0x1100#16] with i := 0x202#16 })
      (fun t => (t.getV 1#4, t.getV 2#4, t.getV 3#4, t.i)) = some (0x33#8, 0x22#8, 0x11#8, 0x202#16) ∧
    after (step { prog [0x5313#16, 0x3322#16, 0x1100#16] with i := 0x202#16 })
      (fun t => (t.getV 1#4, t.getV 2#4, t.getV 3#4, t.i)) = some (0x11#8, 0x22#8, 0x33#8, 0x202#16) := by
  decide +kernel

/-- M22 -/
theorem test_srgf :
    after (step { prog [0xFF75#16] with v := Vector.ofFn fun j => BitVec.ofNat 8 j.val })
      (fun t => (t.flags.toList, t.i)) =
        some ((List.range 16).map (BitVec.ofNat 8), 0#16) := by decide +kernel

/-- M23 -/
theorem test_lrgf :
    after (step { prog [0xF285#16] with flags := Vector.ofFn fun j => BitVec.ofNat 8 j.val })
      (fun t => (t.getV 0#4, t.getV 1#4, t.getV 2#4, t.getV 3#4)) = some (0#8, 1#8, 2#8, 0#8) := by decide +kernel

/-! ### Timers and keypad (95 §2.6) -/

/-- T4 -/
theorem test_ldVxDt : after (step { prog [0xF107#16] with dt := 0x3C#8 }) (fun t => t.getV 1#4) = some 0x3C#8 := by
  decide +kernel

theorem test_ldDt : after (step (withV (prog [0xF015#16]) [(0#4, 7#8)])) (fun t => (t.dt, t.st)) = some (7#8, 0#8) := by
  decide +kernel

/-- T3 -/
theorem test_ldSt :
    after (step (withV (prog [0xF218#16]) [(2#4, 2#8)])) (fun t => (t.st, t.isBeeping)) = some (2#8, true) := by
  decide +kernel

/-- T7, T9 -/
theorem test_ldKey :
    after (step { prog [0xF30A#16] with latch := some ⟨7#4, 5⟩, ktick := 7 }) (fun t => (t.getV 3#4, t.latch, t.pc)) =
      some (7#8, none, 0x202#16) ∧
    after (step (prog [0xF00A#16])) (fun t => (t.pc, t.executed)) = some (0x200#16, 1) := by decide +kernel

/-- T10, T12 -/
theorem test_skp :
    after (step { withV (prog [0xE19E#16]) [(1#4, 4#8)] with down := (Vector.replicate 16 false).set 4 true })
      (fun t => t.pc) = some 0x204#16 ∧
    after (step (withV (prog [0xE19E#16]) [(1#4, 0x10#8)])) (fun t => (t.fatal, t.pc)) =
      some (some (.invalidKeyIndex 16 0x200#16), 0x200#16) := by decide +kernel

/-- T11 -/
theorem test_sknp :
    after (step { withV (prog [0xE1A1#16]) [(1#4, 4#8)] with down := (Vector.replicate 16 false).set 4 true })
      (fun t => t.pc) = some 0x202#16 ∧
    after (step (withV (prog [0xE1A1#16]) [(1#4, 15#8)])) (fun t => t.pc) = some 0x204#16 := by decide +kernel

/-- T1, T2 -/
theorem test_stepTimers :
    after (step { State.reset with inputs := [.act .stepTimers], dt := 1#8 }) (fun t => (t.dt, t.st, t.ktick)) =
      some (0#8, 0#8, 1) := by decide +kernel

/-- T5, T13 -/
theorem test_keyDown :
    after (step { State.reset with inputs := [.act (.keyDown 7 false)], ktick := 5 }) (fun t => t.latch) =
      some (some ⟨7#4, 5⟩) ∧
    after (step { State.reset with inputs := [.act (.keyDown 16 true)] }) (fun t => t.fatal) =
      some (some (.invalidKeyIndex 16 0x200#16)) := by decide +kernel

/-! ### Display (95 §1, §2.7) -/

/-- S7 and G2: wrap, scale and the collision of a second draw. -/
theorem test_drw_plain :
    after (step { withQ (withV (prog [0xD011#16, 0xC000#16]) [(0#4, 0x3F#8), (1#4, 0x1F#8)])
        (fun q => { q with drawClipping := false }) with i := 0x202#16 })
      (fun t => (t.plane0, t.getV 15#4)) =
        some (dots [(126, 62), (127, 62), (126, 63), (127, 63), (0, 62), (1, 62), (0, 63), (1, 63)], 0#8) ∧
    after (step { prog [0xD011#16, 0x8000#16] with i := 0x202#16, plane0 := dots [(1, 1)] })
      (fun t => (t.plane0, t.getV 15#4)) = some (dots [(0, 0), (1, 0), (0, 1)], 1#8) := by decide +kernel

/-- G5, G6: no plane and two planes. -/
theorem test_drw_masks :
    after (step { prog [0xD015#16] with pmask := 0#2, i := 0xFFFF#16 }) (fun t => (t.fatal, t.plane0, t.getV 15#4)) =
      some (none, Plane.clear, 0#8) ∧
    after (step { prog [0xD001#16, 0x8040#16] with pmask := 3#2, mode := .hires, i := 0x202#16 })
      (fun t => (t.plane0, t.plane1, t.getV 15#4)) = some (dots [(0, 0)], dots [(1, 0)], 0#8) := by decide +kernel

/-- G8 in part: one row of the 16 x 16 sprite; and G9 -/
theorem test_drw16 :
    after (step { prog [0xD010#16, 0x8001#16] with i := 0x202#16 }) (fun t => t.plane0) =
      some (dots [(0, 0), (15, 0)]) ∧
    after (step { prog [0xD010#16] with i := 0xFC1#16, pmask := 3#2, mode := .hires }) (fun t => t.fatal) =
      some (some (.memReadOutOfRange 0xFC1#16 64 0x200#16 (some 0xD010#16))) := by decide +kernel

/-- X7 -/
theorem test_drw_waits :
    after (step { prog [0xD011#16] with drawsInBatch := 1 }) (fun t => (t.outcome, t.pc, t.executed)) =
      some (some .displayWait, 0x200#16, 0) := by decide +kernel

/-- G11 -/
theorem test_cls :
    after (step { prog [0x00E0#16] with pmask := 2#2, plane0 := dots [(3, 4)], plane1 := dots [(3, 4)] })
      (fun t => (t.plane0, t.plane1)) = some (dots [(3, 4)], Plane.clear) := by decide +kernel

/-- G12, G13 -/
theorem test_scd :
    after (step { prog [0x00C1#16] with plane0 := dots [(0, 0)] }) (fun t => t.plane0) = some (dots [(0, 2)]) ∧
    after (step { withQ (prog [0x00C1#16]) (fun q => { q with legacyScrolling := true }) with plane0 := dots [(0, 0)] })
      (fun t => t.plane0) = some (dots [(0, 1)]) := by decide +kernel

/-- G14 -/
theorem test_scu :
    after (step { prog [0x00DF#16] with mode := .hires, plane0 := dots [(0, 20)] }) (fun t => t.plane0) =
      some (dots [(0, 5)]) := by decide +kernel

/-- S9, G15 -/
theorem test_scr :
    after (step { prog [0x00FB#16] with mode := .hires, plane0 := dots [(0, 0)] }) (fun t => t.plane0) =
      some (dots [(4, 0)]) ∧
    after (step { prog [0x00FB#16] with plane0 := dots [(0, 0)] }) (fun t => t.plane0) = some (dots [(8, 0)]) := by
  decide +kernel

/-- G16, and the example of R206 -/
theorem test_scl :
    after (step { prog [0x00FC#16] with mode := .hires, plane0 := dots [(2, 0), (4, 0)] }) (fun t => t.plane0) =
      some (dots [(0, 0)]) := by decide +kernel

/-- G18 -/
theorem test_low :
    after (step { prog [0x00FE#16] with mode := .hires, plane0 := dots [(0, 0)] }) (fun t => (t.mode, t.plane0, t.events)) =
      some (.lores, dots [(0, 0)], [.enteredLores]) := by decide +kernel

theorem test_high :
    after (step (prog [0x00FF#16])) (fun t => (t.mode, t.events)) = some (.hires, [.enteredHires]) := by decide +kernel

/-- G19, G20 -/
theorem test_plane :
    after (step (prog [0xF201#16])) (fun t => t.pmask) = some 2#2 ∧
    after (step (prog [0xF401#16])) (fun t => (t.fatal, t.pmask)) = some (some (.invalidPlaneMask 4#4 0x200#16), 1#2) := by
  decide +kernel

/-! ### Audio (95 §2.8) -/

/-- Au5 in part, Au6 -/
theorem test_audio :
    after (step { prog [0xF002#16] with i := 0x200#16 }) (fun t => (t.pattern[0], t.pattern[1], t.pattern[15], t.events)) =
      some (0xF0#8, 0x02#8, 0#8, [.audioUpdated ⟨0⟩ #v[0xF0#8, 0x02#8, 0#8, 0#8, 0#8, 0#8, 0#8, 0#8, 0#8, 0#8, 0#8, 0#8,
        0#8, 0#8, 0#8, 0#8]]) ∧
    after (step { prog [0xF002#16] with i := 0xFF1#16 }) (fun t => t.fatal) =
      some (some (.memReadOutOfRange 0xFF1#16 16 0x200#16 (some 0xF002#16))) := by decide +kernel

/-- Au2: pitch 16 is 2000 Hz, 48 steps below 4000 Hz. -/
theorem test_pitch :
    after (step (withV (prog [0xF03A#16]) [(0#4, 0x10#8)])) (fun t => (t.pitch, t.events)) =
      some (0x10#8, [.audioUpdated ⟨-48⟩ (Vector.replicate 16 0#8)]) := by decide +kernel

/-! ### Host and batches (95 §2.2, §2.9) -/

/-- H2: after reset with no program placed, the first `step()` finds the word 0000. -/
theorem test_step_after_reset :
    after (step State.reset) (fun t => (t.outcome, t.pc)) = some (some .badOpCode, 0x200#16) := by decide +kernel

/-- X1, X2, X3, X4 -/
theorem test_batchSize :
    batchSize State.reset = 10 ∧ batchSize { State.reset with dialect := .schipModern } = 20 ∧
    batchSize { State.reset with dialect := .schipLegacy } = 20 ∧
    batchSize { State.reset with dialect := .xochip } = 500 ∧
    after (step { State.reset with ipsBase := 0 }) (fun t => (t.outcome, t.pc)) = some (some .success, 0x200#16) := by
  decide +kernel

/-- H5, H6 -/
theorem test_profile_and_reset :
    after (step { State.reset with inputs := [.act (.applyProfile .xochip)] }) (fun t => t.fatal) =
      some (some (.unimplementedQuirkProfile .xochip)) ∧
    after (step { State.reset with inputs := [.act .reset], fatal := some (.invalidRegisterIndex 16), pc := 7#16 })
      (fun t => (t.fatal, t.pc)) = some (none, 0x200#16) := by decide +kernel

/-- R9: F5 for an index above 15. -/
theorem test_registerIndex : registerIndex 15 = .ok 15#4 ∧ registerIndex 16 = .error (.invalidRegisterIndex 16) := by
  decide

/-! ### Witnesses of the statements' hypotheses -/

/-- DecodeEncodeRoundTrip: a plain instruction without `SYS_IS_NOP`, and `SYS` with it. -/
theorem test_witness_roundTrip :
    ((Instr.drw 1#4 2#4 1#4).wellFormed = true ∧ ∀ nnn, Instr.drw 1#4 2#4 1#4 = .sys nnn → false = true) ∧
    ((Instr.sys 0x123#12).wellFormed = true ∧ ∀ nnn, Instr.sys 0x123#12 = .sys nnn → true = true) :=
  ⟨⟨by decide, fun _ h => by cases h⟩, ⟨by decide, fun _ _ => rfl⟩⟩

/-- MemWriteStoresAllOrNothing: the last span that fits, and one byte more. -/
theorem test_witness_memWrite :
    Memory.wf [] ∧ (0xFFE#16).toNat + [1#8, 2#8].length ≤ 4096 ∧ 4096 < (0xFFE#16).toNat + [1#8, 2#8, 3#8].length := by
  decide

/-- StepRunsTheDecodedInstruction: `LD I, long` in the last four bytes of memory, and `HIGH` in the last two. -/
theorem test_witness_step_runs_decoded :
    let s := { prog [] with mem := memSetAll [] 0xFFC [0xF0#8, 0x00#8, 0x00#8, 0xFF#8], pc := 0xFFC#16 }
    (s.fatal = none ∧ 0 < s.batchLeft ∧ s.pc.toNat + 4 ≤ 4096 ∧
      decode s.params.sysIsNop ((List.range 4).map fun j => memGet s.mem (s.pc.toNat + j)) = .ok (.ldILong 0x00FF#16, [])) ∧
    let t := { s with pc := 0xFFE#16 }
    (t.fatal = none ∧ 0 < t.batchLeft ∧ t.pc.toNat + 2 ≤ 4096 ∧
      decode t.params.sysIsNop ((List.range 2).map fun j => memGet t.mem (t.pc.toNat + j)) = .ok (.high, [])) := by
  decide +kernel

/-- IllegalWordStopsTheBatch: the last word of memory, 0000. -/
theorem test_witness_illegalWord :
    let s := { prog [] with pc := 0xFFE#16 }
    s.fatal = none ∧ 0 < s.batchLeft ∧ s.pc.toNat + 2 ≤ 4096 ∧
      decodeWord s.params.sysIsNop (memGet s.mem s.pc.toNat ++ memGet s.mem (s.pc.toNat + 1)) = .fail := by
  decide +kernel

/-- FetchPastMemoryIsFatal: PC at the last byte of memory. -/
theorem test_witness_fetchPast :
    let s := { prog [] with pc := 0xFFF#16 }
    s.fatal = none ∧ 0 < s.batchLeft ∧ 4096 < s.pc.toNat + 2 := by decide

/-- CallingStepOpensABatch, BatchIsTheRunOfItsSteps: both forms of a host that calls `step()`, with N = 0 and N = 1. -/
theorem test_witness_callingStep :
    (HostActsNext { State.reset with ipsBase := 0 } none [] ∧ State.reset.fatal = none ∧
      batchLimit { State.reset with ipsBase := 0 } = 0) ∧
    (HostActsNext { State.reset with ipsBase := 1, inputs := [.step] } none [] ∧
      0 < batchLimit { State.reset with ipsBase := 1 }) :=
  ⟨⟨⟨rfl, .inr ⟨rfl, rfl⟩⟩, rfl, rfl⟩, ⟨⟨rfl, .inl rfl⟩, by decide⟩⟩

/-- NoStepAfterAFatalError: between two batches, and (in no run) within one. -/
theorem test_witness_noStep :
    let e := FatalError.stackEmpty 0x200#16 0x00EE#16
    ({ State.reset with fatal := some e }.fatal = some e ∧ HostActsNext { State.reset with fatal := some e } none []) ∧
    { prog [] with fatal := some e }.fatal = some e ∧ 0 < { prog [] with fatal := some e }.batchLeft :=
  ⟨⟨rfl, rfl, .inr ⟨rfl, rfl⟩⟩, rfl, by decide⟩

/-- TimersTickDownToZero, HostResetRestoresResetValues, HostConfiguresTheEngine: the host acts next. -/
theorem test_witness_hostActs (a : HostAction) (rest : List HostCall) :
    HostActsNext { State.reset with inputs := .act a :: rest } (some a) rest := ⟨rfl, rfl⟩

/-- KeyEventsSetKeysAndLatchReleases, ReleaseLastsTwoTicks: the last key and the first number above it. -/
theorem test_witness_keyEvents :
    HostActsNext { State.reset with inputs := [.act (.keyDown 15 false)] } (some (.keyDown 15 false)) [] ∧ 15 ≤ 15 ∧
    HostActsNext { State.reset with inputs := [.act (.keyDown 16 true)] } (some (.keyDown 16 true)) [] ∧ 15 < 16 :=
  ⟨⟨rfl, rfl⟩, by decide, ⟨rfl, rfl⟩, by decide⟩

/-- CartridgeLoadsAt0x200: the longest cartridge and one byte more. -/
theorem test_witness_cartridge :
    let c := fun n => HostAction.loadCartridge (List.replicate n 0#8)
    (HostActsNext { State.reset with inputs := [.act (c 3584)] } (some (c 3584)) [] ∧ State.reset.mem.wf ∧
      (List.replicate 3584 0#8).length ≤ 3584) ∧
    (HostActsNext { State.reset with inputs := [.act (c 3585)] } (some (c 3585)) [] ∧
      3584 < (List.replicate 3585 0#8).length) :=
  ⟨⟨⟨rfl, rfl⟩, by decide, Nat.le_of_eq List.length_replicate⟩, ⟨rfl, rfl⟩, by rw [List.length_replicate]; decide⟩

/-- EveryStepKeepsTheInvariant: a draw under `Q.display_wait`, from a state with a latch, an open batch, memory and a
full stack. -/
theorem test_witness_invariant :
    let s := { prog [0xD011#16] with latch := some ⟨7#4, 5⟩, ktick := 7, stack := List.replicate 16 0x202#16 }
    s.Inv ∧ s.quirks.displayWait = true ∧ ∃ t, step s = .next t ∧ t.drawsInBatch = 1 := by
  refine ⟨⟨by decide +kernel, by decide, ?_, by decide, by decide, by decide⟩, rfl, _, rfl, rfl⟩
  intro l hl
  cases hl
  decide

/-- StoppedEngineStopsAgain: each of the three outcomes. -/
theorem test_witness_stopped :
    [(0x00FD#16, StepOutcome.exit), (0xFFFF#16, .badOpCode), (0x1200#16, .loop)].all (fun c =>
      decide (0 < (prog [c.1]).batchLeft ∧ (prog [c.1]).outcome = none ∧
        after (step (prog [c.1])) (fun t => (t.inputs, decide (0 < batchLimit t), t.outcome)) =
          some ([], true, some c.2))) = true := by
  decide +kernel

/-- EachPartHasItsOwnWriters: an instruction that completes. -/
theorem test_witness_eachPart : ∃ t, exec .cls (prog []) = .next t := ⟨_, rfl⟩

/-- FatalErrorsAreListedAndPrecise: a `RET` on the empty stack. -/
theorem test_witness_fatalErrors :
    (prog []).fatal = none ∧ ∃ t, exec .ret (prog []) = .next t ∧ t.fatal = some (.stackEmpty 0x200#16 0x00EE#16) :=
  ⟨rfl, _, rfl, rfl⟩

/-- The statements that range over a list of instructions (BitwiseOpsAndVfReset, SubtractionsSetNoBorrow,
SkipsAdvanceTwoOrFour and, in the same way, those of the shifts, the font pointers and the scrolls): a member of it. -/
theorem test_witness_lists (x y : RegIdx) (kk : Byte) (s : State) :
    (Instr.or x y, s.getV x ||| s.getV y) ∈ [(Instr.or x y, s.getV x ||| s.getV y), (.and x y, s.getV x &&& s.getV y),
      (.xor x y, s.getV x ^^^ s.getV y)] ∧
    (Instr.subn x y, s.getV y, s.getV x) ∈ [(Instr.sub x y, s.getV x, s.getV y), (.subn x y, s.getV y, s.getV x)] ∧
    (Instr.seK x kk, decide (s.getV x = kk)) ∈ [(Instr.seK x kk, decide (s.getV x = kk)),
      (.sneK x kk, decide (s.getV x ≠ kk)), (.seR x y, decide (s.getV x = s.getV y)),
      (.sneR x y, decide (s.getV x ≠ s.getV y))] := by simp

/-- AddSetsCarry, SubtractionsSetNoBorrow, ShiftsSetTheBitShiftedOut, AddByteWrapsWithoutFlag: a destination that is not
VF, and registers apart from both. -/
theorem test_witness_destinations : (14#4 : RegIdx) ≠ 15#4 ∧ (0#4 : RegIdx) ≠ 14#4 ∧ (0#4 : RegIdx) ≠ 15#4 := by decide

/-- LongLoadOfIndex: the two words in the last four bytes of memory, and the first word alone in the last two. -/
theorem test_witness_longLoad :
    let s := { prog [] with mem := memSetAll [] 0xFFC [0xF0#8, 0x00#8, 0xF0#8, 0x00#8], pc := 0xFFC#16 }
    let t := { s with pc := 0xFFE#16 }
    (s.fatal = none ∧ 0 < s.batchLeft ∧ memGet s.mem s.pc.toNat = 0xF0#8 ∧ memGet s.mem (s.pc.toNat + 1) = 0x00#8 ∧
      s.pc.toNat + 4 ≤ 4096) ∧
    (t.pc.toNat + 2 ≤ 4096 ∧ memGet t.mem t.pc.toNat = 0xF0#8 ∧ memGet t.mem (t.pc.toNat + 1) = 0x00#8 ∧
      4096 < t.pc.toNat + 4) := by decide +kernel

/-- AddIndexAndItsCarry: both settings of the toggle. -/
theorem test_witness_addIndex :
    (withQ State.reset fun q => { q with addICarry := true }).quirks.addICarry = true ∧
    State.reset.quirks.addICarry = false := by decide

/-- BcdStoresThreeDigits, StoreRegistersAtIndex, LoadRegistersFromIndex, SaveRangeStoresInOrder,
LoadRangeLoadsInOrder, AudioLoadsThePattern: the last index that fits and the next one, with all sixteen registers. -/
theorem test_witness_spans :
    State.reset.mem.wf ∧ (0xFFD#16).toNat + 3 ≤ 4096 ∧ 4096 < (0xFFE#16).toNat + 3 ∧
    (0xFF0#16).toNat + (15#4).toNat + 1 ≤ 4096 ∧ 4096 < (0xFF1#16).toNat + (15#4).toNat + 1 ∧
    (0xFF0#16).toNat + (((15#4).toNat - (0#4).toNat) + ((0#4).toNat - (15#4).toNat) + 1) ≤ 4096 ∧
    4096 < (0xFF1#16).toNat + (((0#4).toNat - (15#4).toNat) + ((15#4).toNat - (0#4).toNat) + 1) ∧
    (0xFF0#16).toNat + 16 ≤ 4096 ∧ 4096 < (0xFF1#16).toNat + 16 := by decide

/-- JumpSetsPcOrReportsALoop: a jump to itself, a jump away, and the one target whose fetch fails. -/
theorem test_witness_jump :
    (0x200#12).toNat = State.reset.pc.toNat ∧ (0x202#12).toNat ≠ State.reset.pc.toNat ∧
    after (exec (.jp 0xFFF#12) State.reset) (fun t => fetchWord t.mem t.pc) = some none ∧
    after (exec (.jp 0xFFE#12) State.reset) (fun t => fetchWord t.mem t.pc) = some (some 0#16) := by decide +kernel

/-- CallPushesAndRetPops, RetReturnsAfterTheCall: depths 15 and 16, 1 and 0. -/
theorem test_witness_stack :
    (List.replicate 15 0x202#16).length < 16 ∧ 16 ≤ (List.replicate 16 0x202#16).length ∧
    (∃ a rest, { State.reset with stack := [0x202#16] }.stack = a :: rest) ∧ State.reset.stack = [] ∧
    ∃ t, exec (.call 0x300#12) State.reset = .next t ∧ t.stack = [0x202#16] :=
  ⟨by decide, by decide, ⟨_, _, rfl⟩, rfl, _, rfl, rfl⟩

/-- KeyWaitConsumesTheRelease: a latched release of key 15, and none. -/
theorem test_witness_keyWait :
    { State.reset with latch := some ⟨15#4, 0⟩ }.latch = some ⟨15#4, 0⟩ ∧ State.reset.latch = none := by decide

/-- KeySkipsReadTheKey: V[x] of 15 and of 16. -/
theorem test_witness_keySkips :
    ((withV State.reset [(1#4, 15#8)]).getV 1#4).toNat < 16 ∧ 16 ≤ ((withV State.reset [(1#4, 16#8)]).getV 1#4).toNat := by
  decide

/-- How many bytes a draw reads, as the two draw statements say it. -/
def bytesOf (pmask : BitVec 2) (n : Nat) : Nat := if pmask = 0#2 then 0 else if pmask = 3#2 then 2 * n else n

/-- PlainDrawTogglesTouchedPixels: no plane, the last sprites that fit on one plane and on two, one byte more, a draw
with and without a pixel it touches set. -/
theorem test_witness_plainDraw :
    (15#4 : BitVec 4) ≠ 0#4 ∧ ¬(State.reset.quirks.displayWait = true ∧ 1 ≤ State.reset.drawsInBatch) ∧
    (bytesOf 0#2 15 = 0 ∧ (0xFF1#16).toNat + bytesOf 1#2 15 ≤ 4096 ∧ 4096 < (0xFF2#16).toNat + bytesOf 1#2 15 ∧
      (0xFE2#16).toNat + bytesOf 3#2 15 ≤ 4096 ∧ 4096 < (0xFE3#16).toNat + bytesOf 3#2 15) ∧
    Touches 2 8 1 true 63 31 (fun _ _ => true) 127 63 ∧ (dots [(127, 63)]).pixel 127 63 = true ∧
    Plane.clear.pixel 127 63 = false :=
  ⟨by decide, by decide, by decide, ⟨0, 0, by decide⟩, by decide +kernel, by decide +kernel⟩

/-- SuperDrawTogglesTouchedPixels: likewise. -/
theorem test_witness_superDraw :
    ¬(State.reset.quirks.displayWait = true ∧ 1 ≤ State.reset.drawsInBatch) ∧
    (bytesOf 0#2 32 = 0 ∧ (0xFE0#16).toNat + bytesOf 2#2 32 ≤ 4096 ∧ 4096 < (0xFE1#16).toNat + bytesOf 2#2 32 ∧
      (0xFC0#16).toNat + bytesOf 3#2 32 ≤ 4096 ∧ 4096 < (0xFC1#16).toNat + bytesOf 3#2 32) ∧
    Touches 1 16 16 false 127 63 (fun _ _ => true) 14 14 :=
  ⟨by decide, by decide, ⟨15, 15, by decide⟩⟩

/-- SecondDrawOfABatchWaits. -/
theorem test_witness_secondDraw :
    { State.reset with drawsInBatch := 1 }.quirks.displayWait = true ∧ 1 ≤ { State.reset with drawsInBatch := 1 }.drawsInBatch := by
  decide

/-- SameSpriteTwiceRestoresThePlanes: no plane, the last sprites of both sizes that fit on one plane and on two. -/
theorem test_witness_sameSpriteTwice_fits :
    (bytesOf 0#2 15 = 0 ∧ bytesOf 0#2 32 = 0) ∧ (0xFF1#16).toNat + bytesOf 1#2 15 ≤ 4096 ∧
    (0xFE2#16).toNat + bytesOf 3#2 15 ≤ 4096 ∧ (0xFE0#16).toNat + bytesOf 2#2 32 ≤ 4096 ∧
    (0xFC0#16).toNat + bytesOf 3#2 32 ≤ 4096 := by decide

/-- SameSpriteTwiceRestoresThePlanes: under `Q.display_wait`, x = 15: a sprite of each size changes a pixel of the clear
planes, and in the next batch, V[15] restored, the state meets every premise on the second draw. -/
theorem test_witness_sameSpriteTwice :
    let s := withV { prog [0xDF11#16, 0x8000#16] with i := 0x202#16 } [(15#4, 5#8)]
    s.quirks.displayWait = true ∧ s.drawsInBatch = 0 ∧ s.plane0 = Plane.clear ∧ s.plane1 = Plane.clear ∧
      [Instr.drw 15#4 1#4 1#4, .drw16 15#4 1#4].all (fun i => decide (after (exec i s) (fun t =>
        let u := withV { t with drawsInBatch := 0 } [(15#4, 5#8)]
        decide (t.plane0 ≠ s.plane0 ∧ ¬(u.quirks.displayWait = true ∧ 1 ≤ u.drawsInBatch) ∧ u.plane0 = t.plane0 ∧
          u.plane1 = t.plane1 ∧ u.mem = s.mem ∧ u.i = s.i ∧ u.pmask = s.pmask ∧ u.mode = s.mode ∧
          u.quirks.drawClipping = s.quirks.drawClipping ∧ u.getV 15#4 = s.getV 15#4 ∧ u.getV 1#4 = s.getV 1#4)) =
        some true)) = true := by
  decide +kernel

/-- ModeAndPlaneSelection: the last mask and the first number above it. -/
theorem test_witness_plane : (3#4).toNat ≤ 3 ∧ 3 < (4#4).toNat := by decide

/-- FrequencyFollowsThePitch: two pitches 48 apart, the higher one the largest. -/
theorem test_witness_frequency : (255#8).toNat = (207#8).toNat + 48 := by decide

end Sys2Proof.Tests
end

section
/-! The dialect selector is not read by any instruction (spec/00_scope.md R2, spec/10_state.md R39; D2, D43): every
operation an instruction is built from commutes with setting the selector, and so does every instruction. -/

namespace Sys2Proof.Machine

/-- The state with the dialect selector set to `d`, its only change. -/
def State.inDialect (s : State) (d : Dialect) : State := { s with dialect := d }

/-- What an instruction answers, with the dialect selector of a next state set to `d`. -/
def inDialectAfter (d : Dialect) : Result → Result
  | .next t => .next (t.inDialect d)
  | .fault e => .fault e
  | .refused r => .refused r

variable (s : State) (d : Dialect)

/-! ### What the selector leaves as it is -/

@[simp] theorem State.inDialect_i : (s.inDialect d).i = s.i := rfl
@[simp] theorem State.inDialect_pc : (s.inDialect d).pc = s.pc := rfl
@[simp] theorem State.inDialect_stack : (s.inDialect d).stack = s.stack := rfl
@[simp] theorem State.inDialect_latch : (s.inDialect d).latch = s.latch := rfl
@[simp] theorem State.inDialect_pmask : (s.inDialect d).pmask = s.pmask := rfl
@[simp] theorem State.inDialect_mem : (s.inDialect d).mem = s.mem := rfl
@[simp] theorem State.inDialect_flags : (s.inDialect d).flags = s.flags := rfl
@[simp] theorem State.inDialect_quirks : (s.inDialect d).quirks = s.quirks := rfl
@[simp] theorem State.getV_inDialect (x : RegIdx) : (s.inDialect d).getV x = s.getV x := rfl
@[simp] theorem State.getRegs_inDialect (xs : List RegIdx) : (s.inDialect d).getRegs xs = s.getRegs xs := rfl
@[simp] theorem State.drawMustWait_inDialect : (s.inDialect d).drawMustWait = s.drawMustWait := rfl

/-! ### Operations that commute with the selector -/

theorem State.setBitwise_inDialect (x : RegIdx) (b : Byte) :
    (s.inDialect d).setBitwise x b = (s.setBitwise x b).inDialect d := by
  unfold State.setBitwise
  rw [State.inDialect_quirks]
  split <;> rfl

theorem State.bumpI_inDialect (n : Nat) : (s.inDialect d).bumpI n = (s.bumpI n).inDialect d := by
  unfold State.bumpI
  rw [State.inDialect_quirks]
  split <;> rfl

theorem State.setRegs_inDialect (xs : List RegIdx) (bs : List Byte) :
    (s.inDialect d).setRegs xs bs = (s.setRegs xs bs).inDialect d := by
  fun_induction State.setRegs s xs bs with
  | case1 s x xs b bs ih => exact ih
  | case2 s xs bs h => rw [State.setRegs]; exact h

theorem drawPlanes_inDialect (pixelsOf : List Byte → List (Nat × Nat)) (bs : List Byte) :
    drawPlanes (s.inDialect d) pixelsOf bs =
      ((drawPlanes s pixelsOf bs).1.inDialect d, (drawPlanes s pixelsOf bs).2) := by
  unfold drawPlanes
  rw [State.inDialect_pmask]
  split <;> rfl

/-! ### The ends of an instruction -/

theorem done_inDialect : done (s.inDialect d) = inDialectAfter d (done s) := rfl

variable {s d}

theorem withRead_inDialect (i : Instr) (addr : Addr) (n : Nat) {k k' : List Byte → State}
    (hk : ∀ bs, k' bs = (k bs).inDialect d) :
    withRead i addr n (s.inDialect d) k' = inDialectAfter d (withRead i addr n s k) := by
  unfold withRead
  rw [State.inDialect_mem]
  split
  · rfl
  · rw [hk, done_inDialect]

theorem withWrite_inDialect (i : Instr) (addr : Addr) (bs : List Byte) {k : State → State}
    (hk : ∀ t : State, k (t.inDialect d) = (k t).inDialect d) :
    withWrite i addr bs (s.inDialect d) k = inDialectAfter d (withWrite i addr bs s k) := by
  unfold withWrite
  rw [State.inDialect_mem]
  split
  · rfl
  · exact congrArg done (hk { s with mem := _ })

theorem drawInstr_inDialect (i : Instr) (n : Nat) (pixelsOf : List Byte → List (Nat × Nat)) :
    drawInstr i n pixelsOf (s.inDialect d) = inDialectAfter d (drawInstr i n pixelsOf s) := by
  unfold drawInstr
  rw [State.drawMustWait_inDialect]
  split
  · rfl
  · refine withRead_inDialect _ _ _ fun bs => ?_
    rw [drawPlanes_inDialect]
    rfl

/-! ### Every instruction -/

/-- R39: setting the selector before an instruction and after it is the same. The instructions named here branch on
the state or move a list of bytes; every other one completes in one way, with a state whose selector is the old one. -/
theorem exec_inDialect (i : Instr) : exec i (s.inDialect d) = inDialectAfter d (exec i s) := by
  cases i with
  | jp nnn =>
    simp only [exec, execJp, apply_ite (inDialectAfter d)]
    rfl
  | call nnn =>
    simp only [exec, execCall, State.inDialect_pc, State.inDialect_stack]
    split <;> rfl
  | ret =>
    simp only [exec, execRet, State.inDialect_stack]
    split <;> rfl
  | or x y => exact congrArg (fun t : State => done t.advance) (State.setBitwise_inDialect ..)
  | and x y => exact congrArg (fun t : State => done t.advance) (State.setBitwise_inDialect ..)
  | xor x y => exact congrArg (fun t : State => done t.advance) (State.setBitwise_inDialect ..)
  | drw x y n => exact drawInstr_inDialect ..
  | drw16 x y => exact drawInstr_inDialect ..
  | plane n =>
    simp only [exec, execPlane, apply_ite (inDialectAfter d)]
    rfl
  | skp x =>
    simp only [exec, execSkp, State.getV_inDialect]
    split <;> rfl
  | sknp x =>
    simp only [exec, execSknp, State.getV_inDialect]
    split <;> rfl
  | ldKey x =>
    simp only [exec, execLdKey, State.inDialect_latch]
    split <;> rfl
  | addI x =>
    simp only [exec, execAddI, apply_ite State.advance, apply_ite done, apply_ite (inDialectAfter d)]
    rfl
  | srgf x =>
    simp only [exec, execSrgf, State.inDialect_flags, State.getRegs_inDialect]
    split <;> rfl
  | lrgf x =>
    simp only [exec, execLrgf, State.inDialect_flags, State.setRegs_inDialect]
    split <;> rfl
  | bcd x => exact withWrite_inDialect _ _ _ fun t => rfl
  | save x y => exact withWrite_inDialect _ _ _ fun t => rfl
  | ldMemV x =>
    simp only [exec, execLdMemV, State.inDialect_i, State.getRegs_inDialect]
    exact withWrite_inDialect _ _ _ fun t => congrArg State.advance (State.bumpI_inDialect ..)
  | ldVMem x =>
    refine withRead_inDialect _ _ _ fun bs => ?_
    rw [State.setRegs_inDialect, State.bumpI_inDialect]
    rfl
  | load x y => exact withRead_inDialect _ _ _ fun bs => congrArg State.advance (State.setRegs_inDialect ..)
  | audio => exact withRead_inDialect _ _ _ fun bs => rfl
  | _ => rfl

/-- Settles O23: setting the dialect selector commutes with every instruction. -/
theorem dialectDoesNotChangeExecution : Obligations.DialectDoesNotChangeExecution := by
  intro i s d
  exact exec_inDialect i

end Sys2Proof.Machine
end

section
/-! The host's configuration calls and the reset state (spec/10_state.md R42, R49; spec/60_exceptions.md R259, R263,
R264). -/

namespace Sys2Proof.Machine

/-! ### Configuration by the host -/

/-- R42: an override sets the toggle it names and no other: every pair of names is looked up. -/
theorem quirkValue_overrideQuirk (q : Quirks) (name p : QuirkName) (b : Bool) :
    quirkValue (overrideQuirk q name b) p = if p = name then b else quirkValue q p := by
  cases name <;> cases p <;> rfl

/-- Settles O15: each call is the host's next action, so the step is what `hostAct` says of it. -/
theorem hostConfiguresTheEngine : Obligations.HostConfiguresTheEngine := by
  intro s rest
  refine ⟨fun d h => ?_, fun q b h => ⟨_, step_of_act h, fun p => quirkValue_overrideQuirk s.quirks q p b, rfl⟩,
    fun n h => step_of_act h⟩
  cases d <;> exact step_of_act h

/-! ### The reset state -/

/-- The j-th byte of a font as a list. -/
theorem getD_toList {n : Nat} (f : Vector Byte n) {j : Nat} (hj : j < n) : f.toList.getD j 0#8 = f[j] := by
  simp [List.getD_eq_getElem?_getD, hj]

/-- R70: the reset contents of memory are the two suggested fonts in their places and 0 elsewhere. -/
theorem resetByte_eq (a : Nat) :
    resetByte a =
      if h : 0x050 ≤ a ∧ a < 0x0A0 then suggestedSmallFont[a - 0x050]
      else if h : 0x0A0 ≤ a ∧ a < 0x140 then suggestedBigFont[a - 0x0A0] else 0#8 := by
  unfold resetByte
  by_cases h1 : a < 0x050
  · rw [if_pos h1, dif_neg (by omega), dif_neg (by omega)]
  · by_cases h2 : a < 0x0A0
    · rw [if_neg h1, if_pos h2, dif_pos ⟨by omega, h2⟩, getD_toList]
    · by_cases h3 : a < 0x140
      · rw [if_neg h1, if_neg h2, if_pos h3, dif_neg (by omega), dif_pos ⟨by omega, h3⟩, getD_toList]
      · rw [if_neg h1, if_neg h2, if_neg h3, dif_neg (by omega), dif_neg (by omega)]

/-- Settles O16: the fields are the values `State.reset` writes out; an empty memory reads as `resetByte`. -/
theorem resetStateHasTheResetValues : Obligations.ResetStateHasTheResetValues := by
  have regs : ∀ k, State.reset.getV k = 0#8 := fun k => Vector.getElem_replicate k.isLt
  have planes : ∀ px py, State.reset.plane0.pixel px py = false ∧ State.reset.plane1.pixel px py = false :=
    fun px py => ⟨pixel_clear px py, pixel_clear px py⟩
  exact ⟨regs, rfl, rfl, rfl, rfl, rfl, rfl, rfl, rfl, planes, rfl, rfl, rfl, rfl, rfl, rfl, rfl, rfl, rfl,
    resetByte_eq⟩

/-- Settles O17: at reset memory and stack are empty, nothing is latched and no batch is open. -/
theorem invariantHoldsAtReset : Obligations.InvariantHoldsAtReset where
  memory := ⟨.nil, nofun⟩
  stack := Nat.zero_le _
  latch := nofun
  openBatch h := absurd h (Nat.lt_irrefl 0)
  batchSize := Nat.zero_le _
  displayWait _ h := absurd h (Nat.lt_irrefl 0)

end Sys2Proof.Machine
end

section
/-! What each part of the state may be written by (spec/10_state.md R20 to R48, spec/40_execution_cycle.md R103, R109):
first the ends of every instruction that branches, each with its guard, then all instructions. -/

namespace Sys2Proof.Machine

/-! ### The ends of the instructions that branch -/

section
variable {s t : State}

/-- R107, R120: a jump to itself stops the batch, any other completes. -/
theorem exec_jp_cases {nnn : BitVec 12} (h : exec (.jp nnn) s = .next t) :
    (addrOf nnn = s.pc ∧ t = (s.emit .loopDetected).stop .loop) ∨
      (addrOf nnn ≠ s.pc ∧ t = (s.setPc (addrOf nnn)).retire) := by
  simp only [exec, execJp] at h
  split at h <;> cases h
  · exact .inl ⟨‹_›, rfl⟩
  · exact .inr ⟨‹_›, rfl⟩

/-- R27, R121: a call on a full stack fails, any other pushes the address after it and jumps. -/
theorem exec_call_cases {nnn : BitVec 12} (h : exec (.call nnn) s = .next t) :
    (stackPush s.stack (s.pc + 2#16) = none ∧ t = s.raise (.stackFull s.pc (firstWord (.call nnn)))) ∨
      ∃ st, stackPush s.stack (s.pc + 2#16) = some st ∧
        t = ({ s with stack := st }.setPc (addrOf nnn)).retire := by
  simp only [exec, execCall] at h
  split at h <;> cases h
  · exact .inl ⟨‹_›, rfl⟩
  · exact .inr ⟨_, ‹_›, rfl⟩

/-- R27, R122: a return on an empty stack fails, any other pops the address it jumps to. -/
theorem exec_ret_cases (h : exec .ret s = .next t) :
    (stackPop s.stack = none ∧ t = s.raise (.stackEmpty s.pc (firstWord .ret))) ∨
      ∃ a st, stackPop s.stack = some (a, st) ∧ t = ({ s with stack := st }.setPc a).retire := by
  simp only [exec, execRet] at h
  split at h <;> cases h
  · exact .inl ⟨‹_›, rfl⟩
  · exact .inr ⟨_, _, ‹_›, rfl⟩

/-- R209: a mask above 3 fails, any other is stored. -/
theorem exec_plane_cases {n : BitVec 4} (h : exec (.plane n) s = .next t) :
    (3 < n.toNat ∧ t = s.raise (.invalidPlaneMask n s.pc)) ∨
      (¬3 < n.toNat ∧ t = ({ s with pmask := n.setWidth 2 } : State).advance.retire) := by
  simp only [exec, execPlane] at h
  split at h <;> cases h
  · exact .inl ⟨‹_›, rfl⟩
  · exact .inr ⟨‹_›, rfl⟩

/-- R184: a register that names no key fails, any other skips by the key's state. -/
theorem exec_skp_cases {x : RegIdx} (h : exec (.skp x) s = .next t) :
    (keyOf (s.getV x) = none ∧ t = s.raise (.invalidKeyIndex (s.getV x).toNat s.pc)) ∨
      ∃ k, keyOf (s.getV x) = some k ∧ t = (s.skipIf (s.isDown k)).retire := by
  simp only [exec, execSkp] at h
  split at h <;> cases h
  · exact .inl ⟨‹_›, rfl⟩
  · exact .inr ⟨_, ‹_›, rfl⟩

/-- R185: as `exec_skp_cases`, with the condition negated. -/
theorem exec_sknp_cases {x : RegIdx} (h : exec (.sknp x) s = .next t) :
    (keyOf (s.getV x) = none ∧ t = s.raise (.invalidKeyIndex (s.getV x).toNat s.pc)) ∨
      ∃ k, keyOf (s.getV x) = some k ∧ t = (s.skipIf (!s.isDown k)).retire := by
  simp only [exec, execSknp] at h
  split at h <;> cases h
  · exact .inl ⟨‹_›, rfl⟩
  · exact .inr ⟨_, ‹_›, rfl⟩

/-- R183: a key wait consumes the latched release, or spins in place. -/
theorem exec_ldKey_cases {x : RegIdx} (h : exec (.ldKey x) s = .next t) :
    (∃ l, s.latch = some l ∧ t = ({ s with latch := none }.setV x (l.key.setWidth 8)).advance.retire) ∨
      (s.latch = none ∧ t = s.retire) := by
  simp only [exec, execLdKey] at h
  split at h <;> cases h
  · exact .inl ⟨_, ‹_›, rfl⟩
  · exact .inr ⟨‹_›, rfl⟩

/-- R162: the sum goes to I, and its overflow to VF only under `Q.add_i_carry`. -/
theorem exec_addI_cases {x : RegIdx} (h : exec (.addI x) s = .next t) :
    (s.quirks.addICarry = true ∧ t = ((s.setI (indexSum s.i (s.getV x)).1).setCarry
        (indexSum s.i (s.getV x)).2).advance.retire) ∨
      (¬s.quirks.addICarry = true ∧ t = (s.setI (indexSum s.i (s.getV x)).1).advance.retire) := by
  simp only [exec, execAddI] at h
  split at h <;> cases h
  · exact .inl ⟨‹_›, rfl⟩
  · exact .inr ⟨‹_›, rfl⟩

end

/-! ### Flag storage: the check of R67 cannot fire -/

/-- R170: `SRGF Vx` completes for every x. -/
theorem exec_srgf (x : RegIdx) (s : State) :
    exec (.srgf x) s = done { s with flags := flagSetAll s.flags 0 (s.getRegs (regsUpTo x)) }.advance := by
  have h : (s.getRegs (regsUpTo x)).length ≤ 16 := by
    rw [length_getRegs]
    exact length_regRange_le 0#4 x
  simp only [exec, execSrgf, flagWrite_eq _ h]

/-- R171: `LRGF Vx` completes for every x. -/
theorem exec_lrgf (x : RegIdx) (s : State) :
    exec (.lrgf x) s = done (s.setRegs (regsUpTo x) (s.flags.toList.take (x.toNat + 1))).advance := by
  have h : x.toNat + 1 ≤ 16 := x.isLt
  simp only [exec, execLrgf, flagRead_eq _ h]

/-! ### Every instruction -/

/-- R13, R103: a skip moves PC by 2 or by 4. -/
theorem skipIf_pc_cases (s : State) (b : Bool) :
    (s.skipIf b).pc = s.pc + 2#16 ∨ (s.skipIf b).pc = s.pc + 4#16 := by
  cases b
  · exact .inl rfl
  · exact .inr rfl

/-- R21, R198, R199: a draw writes no register but VF. -/
theorem drawInstr_getV {i : Instr} {n : Nat} {pixelsOf : List Byte → List (Nat × Nat)} {s t : State}
    (h : drawInstr i n pixelsOf s = .next t) {k : RegIdx} (hk : k ≠ 15#4) : t.getV k = s.getV k := by
  rcases drawInstr_cases h with ⟨-, rfl⟩ | rfl | ⟨-, hit, p0, p1, rfl⟩
  · rfl
  · rfl
  · exact getV_setV_ne s hk _

/-- Settles O21: by the instruction, each of its ends being a named update of `s`, whose fields the `simp` lemmas of the
updates give. The instructions named here branch; every other one completes in one way. -/
theorem eachPartHasItsOwnWriters : Obligations.EachPartHasItsOwnWriters := by
  intro i s t h
  cases i with
  | jp nnn => rcases exec_jp_cases h with ⟨-, rfl⟩ | ⟨-, rfl⟩ <;> simp
  | call nnn => rcases exec_call_cases h with ⟨-, rfl⟩ | ⟨st, -, rfl⟩ <;> simp
  | ret => rcases exec_ret_cases h with ⟨-, rfl⟩ | ⟨a, st, -, rfl⟩ <;> simp
  | plane n => rcases exec_plane_cases h with ⟨-, rfl⟩ | ⟨-, rfl⟩ <;> simp
  | ldKey x => rcases exec_ldKey_cases h with ⟨l, -, rfl⟩ | ⟨-, rfl⟩ <;> simp
  | addI x =>
    rcases exec_addI_cases h with ⟨-, rfl⟩ | ⟨-, rfl⟩
    · simp +contextual [getV_setCarry]
    · simp
  | skp x => rcases exec_skp_cases h with ⟨-, rfl⟩ | ⟨k, -, rfl⟩ <;> simp [skipIf_pc_cases, -State.skipIf_pc]
  | sknp x => rcases exec_sknp_cases h with ⟨-, rfl⟩ | ⟨k, -, rfl⟩ <;> simp [skipIf_pc_cases, -State.skipIf_pc]
  | seK x kk | sneK x kk | seR x y | sneR x y =>
    cases h
    simp [skipIf_pc_cases, -State.skipIf_pc]
  | drw x y n | drw16 x y =>
    have hv : ∀ k, k ≠ 15#4 → t.getV k = s.getV k := fun k => drawInstr_getV h
    rcases drawInstr_cases h with ⟨-, rfl⟩ | rfl | ⟨-, hit, p0, p1, rfl⟩ <;> simpa using hv
  | bcd x | save x y => rcases withWrite_cases h with rfl | ⟨m, -, rfl⟩ <;> simp
  | ldMemV x =>
    simp only [exec, execLdMemV] at h
    rcases withWrite_cases h with rfl | ⟨m, -, rfl⟩ <;> simp
  | ldVMem x | load x y | audio => rcases withRead_cases h with rfl | ⟨bs, rfl⟩ <;> simp
  | srgf x =>
    cases (exec_srgf x s).symm.trans h
    simp
  | lrgf x =>
    cases (exec_lrgf x s).symm.trans h
    simp
  | ldILong nnnn =>
    cases h
    simp [BitVec.add_assoc]
  | _ =>
    cases h
    simp

end Sys2Proof.Machine
end

section
/-! Stores, the cartridge and the fetch against the end of memory (spec/20_memory.md R62 to R64, R72;
spec/60_exceptions.md R244, R262). -/

namespace Sys2Proof.Machine

/-! ### Stores -/

/-- R62: after the stores, byte `j` of the span is the j-th byte stored. -/
theorem memGet_memSetAll_inside {m : Memory} (hm : m.wf) {a : Nat} {bs : List Byte}
    (h : a + bs.length ≤ Config.memSize) {j : Nat} (hj : j < bs.length) :
    memGet (memSetAll m a bs) (a + j) = bs[j] := by
  rw [memGet_memSetAll hm h, if_pos (by omega), Nat.add_sub_cancel_left, List.getD_eq_getElem _ _ hj]

/-- R62: the stores leave every byte outside the span. -/
theorem memGet_memSetAll_outside {m : Memory} (hm : m.wf) {a : Nat} {bs : List Byte}
    (h : a + bs.length ≤ Config.memSize) {a' : Nat} (ha : a' < a ∨ a + bs.length ≤ a') :
    memGet (memSetAll m a bs) a' = memGet m a' := by
  rw [memGet_memSetAll hm h, if_neg (by omega)]

/-- Settles O4: a store that fits is `memSetAll` on its span; one that does not is refused whole, and the instruction
raises F1. -/
theorem memWriteStoresAllOrNothing : Obligations.MemWriteStoresAllOrNothing := by
  intro m addr bs hm
  refine ⟨memWrite_eq_none.2, fun h => ⟨memSetAll m addr.toNat bs, memWrite_eq_some.2 ⟨h, rfl⟩, memSetAll_wf hm h,
    fun j hj => memGet_memSetAll_inside hm h hj, fun a ha => memGet_memSetAll_outside hm h ha⟩,
    fun i s k h => withWrite_of_overruns i s k h⟩

/-! ### The cartridge -/

/-- R72: a cartridge whose store succeeds changes memory alone. -/
theorem loadCartridge_of_some {bytes : List Byte} {s : State} {m : Memory}
    (h : memWrite s.mem Config.cartBase bytes = some m) : loadCartridge bytes s = { s with mem := m } := by
  simp only [loadCartridge, h]

/-- R262: a cartridge whose store overflows raises F1. -/
theorem loadCartridge_of_none {bytes : List Byte} {s : State} (h : memWrite s.mem Config.cartBase bytes = none) :
    loadCartridge bytes s = s.raise (.memoryOverflow Config.cartBase bytes.length s.pc none) := by
  simp only [loadCartridge, h]

/-- Settles O14: the load is one store at 0x200, which overflows from 3585 bytes on. -/
theorem cartridgeLoadsAt0x200 : Obligations.CartridgeLoadsAt0x200 := by
  intro s rest bytes hact hm
  have hbase : Config.cartBase.toNat = 0x200 := rfl
  obtain ⟨overflows, stores, -⟩ := memWriteStoresAllOrNothing s.mem Config.cartBase bytes hm
  refine ⟨fun hlen => ?_, fun hlen => ?_⟩
  · obtain ⟨m, hw, -, hin, hout⟩ := stores (by omega)
    refine ⟨{ s with inputs := rest, mem := m }, ?_, hin, hout, rfl⟩
    exact (step_of_act hact).trans (congrArg _ (loadCartridge_of_some hw))
  · exact (step_of_act hact).trans (congrArg _ (loadCartridge_of_none (overflows (by omega))))

/-! ### The fetch -/

/-- R64, R102: where the first word leaves memory the fetch is fatal. -/
theorem fetchInstr_of_overruns {s : State} (h : Config.memSize < s.pc.toNat + 2) :
    fetchInstr s = .fatal (.memReadOutOfRange s.pc 2 s.pc none) := by
  simp only [fetchInstr, fetchWord_eq_none.2 h]

/-- Settles O7: the step is an inner step, whose fetch is fatal. -/
theorem fetchPastMemoryIsFatal : Obligations.FetchPastMemoryIsFatal := by
  intro s hf hb hpc
  rw [step_of_openBatch hf hb, innerStep, fetchInstr_of_overruns hpc]
  rfl

end Sys2Proof.Machine
end

section
/-! Every step keeps the invariant (`State.Inv`; spec/10_state.md R26, spec/20_memory.md R60,
spec/40_execution_cycle.md R100, R104, R108, spec/60_exceptions.md R245, R254): first what an instruction can do to each
part of the state that the invariant speaks of, then every kind of step. -/

namespace Sys2Proof.Machine

section
variable {i : Instr} {s t : State}

/-! ### What an instruction does to the parts the invariant speaks of -/

/-- R62, R68: an instruction leaves memory as it is or makes one checked store. -/
theorem exec_mem_cases (h : exec i s = .next t) :
    t.mem = s.mem ∨ ∃ addr bs, memWrite s.mem addr bs = some t.mem := by
  obtain ⟨-, -, -, -, -, -, -, -, -, unwritten, -⟩ := eachPartHasItsOwnWriters i s t h
  cases i with
  | bcd x | save x y =>
    rcases withWrite_cases h with rfl | ⟨m, hw, rfl⟩
    · exact .inl rfl
    · exact .inr ⟨_, _, hw⟩
  | ldMemV x =>
    simp only [exec, execLdMemV] at h
    rcases withWrite_cases h with rfl | ⟨m, hw, rfl⟩
    · exact .inl rfl
    · exact .inr ⟨_, _, by simpa using hw⟩
  | _ => exact .inl unwritten

/-- R27: a push leaves at most 16 entries. -/
theorem stackPush_length_le {st st' : List Addr} {a : Addr} (h : stackPush st a = some st') :
    st'.length ≤ Config.stackDepth := by
  unfold stackPush at h
  split at h <;> cases h
  assumption

/-- R27: a pop shortens the stack. -/
theorem stackPop_length_lt {st st' : List Addr} {a : Addr} (h : stackPop st = some (a, st')) :
    st'.length < st.length := by
  cases st <;> cases h
  exact Nat.lt_succ_self _

/-- R26, R27: an instruction keeps the bound on the stack, since a push on a full stack fails. -/
theorem exec_stack_le (hs : s.stack.length ≤ Config.stackDepth) (h : exec i s = .next t) :
    t.stack.length ≤ Config.stackDepth := by
  obtain ⟨-, -, -, unwritten, -⟩ := eachPartHasItsOwnWriters i s t h
  cases i with
  | call nnn =>
    rcases exec_call_cases h with ⟨-, rfl⟩ | ⟨st, hpush, rfl⟩
    · exact hs
    · exact stackPush_length_le hpush
  | ret =>
    rcases exec_ret_cases h with ⟨-, rfl⟩ | ⟨a, st, hpop, rfl⟩
    · exact hs
    · exact (stackPop_length_lt hpop).le.trans hs
  | _ => exact unwritten ▸ hs

/-- R183: an instruction latches nothing. -/
theorem exec_latch_cases (h : exec i s = .next t) : t.latch = s.latch ∨ t.latch = none := by
  obtain ⟨-, -, -, -, unwritten, -⟩ := eachPartHasItsOwnWriters i s t h
  cases i with
  | ldKey x =>
    rcases exec_ldKey_cases h with ⟨l, -, rfl⟩ | ⟨-, rfl⟩
    · exact .inr rfl
    · exact .inl rfl
  | _ => exact .inl unwritten

/-- R108: under `Q.display_wait` only the first draw of a batch counts. -/
theorem exec_drawsInBatch_cases (hq : s.quirks.displayWait = true) (h : exec i s = .next t) :
    t.drawsInBatch = s.drawsInBatch ∨ t.drawsInBatch = 1 := by
  obtain ⟨-, -, -, -, -, -, -, -, -, -, -, unwritten, -⟩ := eachPartHasItsOwnWriters i s t h
  cases i with
  | drw x y n | drw16 x y =>
    rcases drawInstr_cases h with ⟨-, rfl⟩ | rfl | ⟨hwait, hit, p0, p1, rfl⟩
    · exact .inl rfl
    · exact .inl rfl
    · have : s.drawsInBatch = 0 := by simpa [State.drawMustWait, hq] using hwait
      exact .inr (by simp [this])
  | _ => exact .inl unwritten

/-- R100, R104, R111: an instruction that leaves the batch open has used one iteration of it, and neither failed nor
returned an outcome. -/
theorem exec_leaves_open (h : exec i s = .next t) (hb : 0 < t.batchLeft) :
    t.batchLeft < s.batchLeft ∧ t.fatal = s.fatal ∧ t.outcome = s.outcome := by
  obtain ⟨t', ht', hends⟩ := exec_ends i s
  cases ht'.symm.trans h
  cases hends with
  | completed u keeps =>
    have hu : u.batchLeft = s.batchLeft := keeps.batchLeft
    rw [State.retire_batchLeft] at hb ⊢
    exact ⟨by omega, keeps.fatal, (if_neg (by omega)).trans keeps.outcome⟩
  | stopped | failed => exact absurd hb (Nat.lt_irrefl 0)

/-! ### The invariant between two batches -/

/-- Between two batches the invariant speaks of memory, the stack and the latch alone. -/
theorem State.Inv.of_noBatch (hb : s.batchLeft = 0) (hm : s.mem.wf) (hst : s.stack.length ≤ Config.stackDepth)
    (hl : ∀ l ∈ s.latch, l.tick ≤ s.ktick ∧ s.ktick - l.tick ≤ Config.latchWindow) : s.Inv where
  memory := hm
  stack := hst
  latch := hl
  openBatch h := by omega
  batchSize := by omega
  displayWait _ h := by omega

/-- R111, R245: a fatal error ends the batch and keeps the invariant. -/
theorem State.Inv.raise (hs : s.Inv) (e : FatalError) : (s.raise e).Inv :=
  .of_noBatch rfl hs.memory hs.stack hs.latch

/-- R104: a stop ends the batch and keeps the invariant. -/
theorem State.Inv.stop (hs : s.Inv) (o : StepOutcome) : (s.stop o).Inv :=
  .of_noBatch rfl hs.memory hs.stack hs.latch

/-- The invariant does not speak of the host's coming actions. -/
theorem State.Inv.withInputs (hs : s.Inv) (rest : List HostCall) : ({ s with inputs := rest } : State).Inv :=
  ⟨hs.memory, hs.stack, hs.latch, hs.openBatch, hs.batchSize, hs.displayWait⟩

/-! ### Instructions -/

/-- Every instruction keeps the invariant, part by part. -/
theorem exec_inv (hs : s.Inv) (h : exec i s = .next t) : t.Inv := by
  obtain ⟨⟨hparams, hdialect, hquirks, hips, -, hktick, -⟩, -⟩ := eachPartHasItsOwnWriters i s t h
  have hopen := exec_leaves_open h
  refine ⟨?_, exec_stack_le hs.stack h, ?_, fun hb => ?_, ?_, fun hq hb => ?_⟩
  · rcases exec_mem_cases h with hmem | ⟨addr, bs, hw⟩
    · exact hmem ▸ hs.memory
    · exact memWrite_wf hs.memory hw
  · rcases exec_latch_cases h with hl | hl
    · exact hl ▸ hktick ▸ hs.latch
    · exact hl ▸ nofun
  · obtain ⟨hlt, hf, ho⟩ := hopen hb
    exact hf ▸ ho ▸ hs.openBatch (by omega)
  · have hN : batchSize t = batchSize s := by simp only [batchSize, hparams, hdialect, hips]
    have := hs.batchSize
    by_cases hb : 0 < t.batchLeft
    · have := (hopen hb).1
      omega
    · omega
  · have hq' : s.quirks.displayWait = true := hquirks ▸ hq
    rcases exec_drawsInBatch_cases hq' h with hd | hd
    · exact hd ▸ hs.displayWait hq' (by have := (hopen hb).1; omega)
    · exact hd.le

/-- Every inner step keeps the invariant: the fetch fails, the word does not decode, or an instruction is executed. -/
theorem innerStep_inv (hs : s.Inv) (h : innerStep s = .next t) : t.Inv := by
  rcases innerStep_cases s with ⟨e, -, heq⟩ | ⟨-, heq⟩ | ⟨i, -, heq⟩
  · cases heq.symm.trans h
    exact hs.raise e
  · cases heq.symm.trans h
    exact hs.stop _
  · exact exec_inv hs (heq.symm.trans h)

/-! ### The host -/

/-- R100: an engine without a fatal error opens a batch of N iterations with no draw in it. -/
theorem openBatch_inv (hs : s.Inv) (hf : s.fatal = none) : (openBatch s).Inv where
  memory := hs.memory
  stack := hs.stack
  latch := hs.latch
  openBatch h := ⟨hf, if_neg (Nat.pos_iff_ne_zero.1 h)⟩
  batchSize := Nat.le_refl _
  displayWait _ _ := Nat.zero_le _

/-- R254: the ticks of `step_timers()` drop a release that becomes too old. -/
theorem keypadStep_latch_inWindow (hl : ∀ l ∈ s.latch, l.tick ≤ s.ktick ∧ s.ktick - l.tick ≤ Config.latchWindow) :
    ∀ l ∈ (keypadStep s).latch,
      l.tick ≤ (keypadStep s).ktick ∧ (keypadStep s).ktick - l.tick ≤ Config.latchWindow := by
  intro l hmem
  obtain ⟨hold, hage⟩ := Option.mem_filter_iff.1 hmem
  exact ⟨(hl l hold).1.trans (Nat.le_succ _), of_decide_eq_true hage⟩

/-- Every action of the host, taken between two batches, keeps the invariant. -/
theorem hostAct_inv (hs : s.Inv) (hb : s.batchLeft = 0) (a : HostAction) : (hostAct a s).Inv := by
  cases a with
  | reset => exact .of_noBatch rfl (fontMemory_wf _) (Nat.zero_le _) nofun
  | loadCartridge bytes =>
    rw [hostAct]
    cases hw : memWrite s.mem Config.cartBase bytes with
    | none =>
      rw [loadCartridge_of_none hw]
      exact hs.raise _
    | some m =>
      rw [loadCartridge_of_some hw]
      exact .of_noBatch hb (memWrite_wf hs.memory hw) hs.stack hs.latch
  | applyProfile d =>
    simp only [hostAct, applyProfile]
    split
    · exact hs.raise _
    · exact .of_noBatch hb hs.memory hs.stack hs.latch
  | stepTimers => exact .of_noBatch hb hs.memory hs.stack (keypadStep_latch_inWindow hs.latch)
  | keyDown k pressed =>
    simp only [hostAct, keyDown]
    split
    · exact hs.raise _
    · refine .of_noBatch hb hs.memory hs.stack ?_
      cases pressed with
      | true => exact hs.latch
      | false =>
        intro l hl
        cases hl
        simp
  | selectDialect | overrideQuirk | passQuirks | setInstructionsPerStep =>
    exact .of_noBatch hb hs.memory hs.stack hs.latch

end

/-! ### Every step -/

/-- Settles O18: a step is an inner step of the open batch, an action of the host, or a call of `step()`, which opens a
batch and does its first inner step; each keeps the invariant. -/
theorem everyStepKeepsTheInvariant : Obligations.EveryStepKeepsTheInvariant := by
  intro s t hs h
  rcases step_cases s with ⟨-, -, heq⟩ | ⟨-, e, -, heq⟩ | ⟨hb, a, rest, -, heq⟩ | ⟨-, rest, -, hcall⟩
  · exact innerStep_inv hs (heq.symm.trans h)
  · cases heq.symm.trans h
  · cases heq.symm.trans h
    exact hostAct_inv (hs.withInputs rest) hb a
  · rcases hcall with ⟨e, -, heq⟩ | ⟨hf, -, heq⟩ | ⟨hf, -, heq⟩
    · cases heq.symm.trans h
    · cases heq.symm.trans h
      exact openBatch_inv (hs.withInputs rest) hf
    · exact innerStep_inv (openBatch_inv (hs.withInputs rest) hf) (heq.symm.trans h)

end Sys2Proof.Machine
end

section
/-! The decoder: what `SYS_IS_NOP` changes, which words it refuses, and the round trip with the encoder
(spec/30_encoding.md R80 to R98, spec/41_control_flow.md R129; D3, D4, D5). -/

namespace Sys2Proof

/-! ### Fields as numbers (R82) -/

theorem fieldT_toNat (w : Word) : (fieldT w).toNat = w.toNat / 0x1000 := by
  rw [fieldT, BitVec.extractLsb'_toNat, Nat.shiftRight_eq_div_pow, Nat.mod_eq_of_lt (by omega)]

theorem fieldT_toNat_eq_zero {w : Word} : (fieldT w).toNat = 0 ↔ w.toNat < 0x1000 := by
  rw [fieldT_toNat, Nat.div_eq_zero_iff_lt (by decide)]

theorem fieldX_toNat (w : Word) : (fieldX w).toNat = w.toNat / 256 % 16 := by
  rw [fieldX, BitVec.extractLsb'_toNat, Nat.shiftRight_eq_div_pow]

theorem fieldN_toNat (w : Word) : (fieldN w).toNat = w.toNat % 16 := by
  rw [fieldN, BitVec.extractLsb'_toNat, Nat.shiftRight_zero]

theorem fieldKK_toNat (w : Word) : (fieldKK w).toNat = w.toNat % 256 := by
  rw [fieldKK, BitVec.extractLsb'_toNat, Nat.shiftRight_zero]

theorem fieldNNN_eq (w : Word) : fieldNNN w = BitVec.ofNat 12 w.toNat := rfl

theorem fieldNNN_toNat (w : Word) : (fieldNNN w).toNat = w.toNat % 0x1000 := by
  rw [fieldNNN_eq, BitVec.toNat_ofNat]

/-! ### The 0 group (R87, R91) -/

/-- R87: the 0-group words that have an instruction of their own, by number. -/
theorem groupZeroFixed_iff (nnn : BitVec 12) :
    groupZeroFixed nnn = true ↔ (0x0C0 ≤ nnn.toNat ∧ nnn.toNat ≤ 0x0DF) ∨
      nnn.toNat ∈ [0x0E0, 0x0EE, 0x0FB, 0x0FC, 0x0FD, 0x0FE, 0x0FF] := by
  have hscroll : nnn.toNat / 16 % 256 = 0x0C ∨ nnn.toNat / 16 % 256 = 0x0D ↔
      0x0C0 ≤ nnn.toNat ∧ nnn.toNat ≤ 0x0DF := by omega
  rw [← hscroll]
  simp [groupZeroFixed, BitVec.toNat_eq, Nat.shiftRight_eq_div_pow, or_assoc]

/-- D4: without `SYS_IS_NOP` the group has its fixed words and no other. -/
theorem decodeGroup0_false_eq_fail {nnn : BitVec 12} :
    decodeGroup0 false nnn = .fail ↔ groupZeroFixed nnn = false := by
  unfold decodeGroup0 groupZeroFixed
  split_ifs <;> simp [*]

/-- D4: `SYS_IS_NOP` makes `SYS` of the words that have no instruction without it. -/
theorem decodeGroup0_true (nnn : BitVec 12) :
    decodeGroup0 true nnn =
      if decodeGroup0 false nnn = .fail then .instr (.sys nnn) else decodeGroup0 false nnn := by
  fun_cases decodeGroup0 false nnn
  all_goals simp [decodeGroup0, *]

/-! ### The illegal words of the other groups (R88, R89, R90) -/

theorem decodeGroup5_eq_fail {x y : RegIdx} {n : BitVec 4} :
    decodeGroup5 x y n = .fail ↔ n.toNat ∉ [0, 2, 3] := by
  unfold decodeGroup5
  split <;> simp_all

theorem decodeGroup8_eq_fail {x y : RegIdx} {n : BitVec 4} :
    decodeGroup8 x y n = .fail ↔ n.toNat ∉ [0, 1, 2, 3, 4, 5, 6, 7, 0xE] := by
  unfold decodeGroup8
  split <;> simp_all

theorem decodeGroupE_eq_fail {x : RegIdx} {kk : Byte} :
    decodeGroupE x kk = .fail ↔ kk.toNat ∉ [0x9E, 0xA1] := by
  unfold decodeGroupE
  split <;> simp_all

/-- D5: the low bytes 00 and 02 have an instruction for x = 0 alone. -/
theorem decodeGroupF_eq_fail {x : RegIdx} {kk : Byte} :
    decodeGroupF x kk = .fail ↔ ¬(x = 0#4 ∧ kk.toNat ∈ [0x00, 0x02]) ∧ kk.toNat ∉
      [0x01, 0x07, 0x0A, 0x15, 0x18, 0x1E, 0x29, 0x30, 0x33, 0x3A, 0x55, 0x65, 0x75, 0x85] := by
  unfold decodeGroupF
  split <;> simp_all

/-! ### Every word (R85, R90, R91) -/

/-- R91: what `SYS_IS_NOP` changes, word by word. -/
theorem decodeWord_true (w : Word) :
    decodeWord true w =
      if (fieldT w).toNat = 0 ∧ decodeWord false w = .fail then .instr (.sys (fieldNNN w))
      else decodeWord false w := by
  by_cases ht : (fieldT w).toNat = 0
  · simp only [decodeWord, ht, decodeGroup0_true, true_and]
  · rw [if_neg fun h => ht h.1]
    unfold decodeWord
    split
    · contradiction
    all_goals rfl

/-- D4: without `SYS_IS_NOP` no word is a `SYS`: none of the decoder's ends answers one. -/
theorem decodeWord_false_ne_sys (w : Word) (nnn : BitVec 12) : decodeWord false w ≠ .instr (.sys nnn) := by
  fun_cases decodeWord false w
  case case1 =>
    fun_cases decodeGroup0 false (fieldNNN w)
    case case10 h => cases h
    all_goals nofun
  case case6 => fun_cases decodeGroup5 (fieldX w) (fieldY w) (fieldN w) <;> nofun
  case case9 => fun_cases decodeGroup8 (fieldX w) (fieldY w) (fieldN w) <;> nofun
  case case17 => fun_cases decodeGroupE (fieldX w) (fieldKK w) <;> nofun
  case case18 => fun_cases decodeGroupF (fieldX w) (fieldKK w) <;> nofun
  all_goals nofun

/-- R90: the words without an instruction, group by group. -/
theorem decodeWord_false_eq_fail (w : Word) :
    decodeWord false w = .fail ↔
      ((fieldT w).toNat = 0x0 ∧ groupZeroFixed (fieldNNN w) = false) ∨
      ((fieldT w).toNat = 0x5 ∧ (fieldN w).toNat ∉ [0, 2, 3]) ∨
      ((fieldT w).toNat = 0x8 ∧ (fieldN w).toNat ∉ [0, 1, 2, 3, 4, 5, 6, 7, 0xE]) ∨
      ((fieldT w).toNat = 0x9 ∧ fieldN w ≠ 0#4) ∨
      ((fieldT w).toNat = 0xE ∧ (fieldKK w).toNat ∉ [0x9E, 0xA1]) ∨
      ((fieldT w).toNat = 0xF ∧ ¬(fieldX w = 0#4 ∧ (fieldKK w).toNat ∈ [0x00, 0x02]) ∧ (fieldKK w).toNat ∉
        [0x01, 0x07, 0x0A, 0x15, 0x18, 0x1E, 0x29, 0x30, 0x33, 0x3A, 0x55, 0x65, 0x75, 0x85]) := by
  fun_cases decodeWord false w
  case case18 =>
    have ht : (fieldT w).toNat = 0xF := by
      simp only [imp_false] at *
      omega
    simp [ht, decodeGroupF_eq_fail]
  all_goals simp [*, decodeGroup0_false_eq_fail, decodeGroup5_eq_fail, decodeGroup8_eq_fail, decodeGroupE_eq_fail]

/-- R90: the illegal words of the 0 group, by number. -/
theorem group0_illegal_iff (w : Word) :
    (fieldT w).toNat = 0 ∧ groupZeroFixed (fieldNNN w) = false ↔
      w.toNat < 0x1000 ∧ ¬(0x00C0 ≤ w.toNat ∧ w.toNat ≤ 0x00DF) ∧
        w.toNat ∉ [0x00E0, 0x00EE, 0x00FB, 0x00FC, 0x00FD, 0x00FE, 0x00FF] := by
  rw [fieldT_toNat_eq_zero, ← Bool.not_eq_true, groupZeroFixed_iff, fieldNNN_toNat, not_or]
  exact and_congr_right fun h => by rw [Nat.mod_eq_of_lt h]

/-- D5: the F-group words other than F000 and F002, by number. -/
theorem groupF_other_iff (w : Word) :
    (fieldT w).toNat = 0xF ∧ ¬(fieldX w = 0#4 ∧ (fieldKK w).toNat ∈ [0x00, 0x02]) ↔
      w.toNat / 0x1000 = 0xF ∧ w.toNat ≠ 0xF000 ∧ w.toNat ≠ 0xF002 := by
  simp only [BitVec.toNat_eq, fieldT_toNat, fieldX_toNat, fieldKK_toNat, List.mem_cons, List.not_mem_nil, or_false,
    BitVec.toNat_ofNat]
  omega

theorem fieldN_ne_zero {w : Word} : fieldN w ≠ 0#4 ↔ w.toNat % 16 ≠ 0 := by
  rw [ne_eq, BitVec.toNat_eq, fieldN_toNat]
  rfl

/-- Settles O3: the groups of `decodeWord_false_eq_fail`, and `decodeWord_true`, with each field read off the
number. -/
theorem illegalWordsAreTheListedOnes : Obligations.IllegalWordsAreTheListedOnes := by
  intro w
  constructor
  · rw [decodeWord_false_eq_fail, group0_illegal_iff, fieldN_ne_zero, ← and_assoc (a := _ = 0xF), groupF_other_iff,
      fieldT_toNat, fieldN_toNat, fieldKK_toNat, and_assoc, and_assoc]
  · simp only [decodeWord_true, fieldT_toNat_eq_zero, fieldNNN_eq]

/-! ### `SYS` -/

/-- Settles O47: `SYS` completes with PC advanced, and only `SYS_IS_NOP` gives it a word. -/
theorem sysIsANopUnderItsParameter : Obligations.SysIsANopUnderItsParameter :=
  ⟨fun _ _ => ⟨_, rfl, Machine.counted_retire rfl⟩, decodeWord_false_ne_sys⟩

/-- Settles O1: each word's group and fields are computed; none of the four depends on `SYS_IS_NOP`. -/
theorem decodesTheSourceWords : Obligations.DecodesTheSourceWords := fun _ => ⟨rfl, rfl, rfl, rfl⟩

end Sys2Proof

/-! ### The round trip (R92, R96) -/

namespace Sys2Proof.Laws.Encoding

/-- R96: the family, for every instruction. -/
theorem decodeWord_true_firstWord : ∀ i, Statement i
  | .cls => cls | .ret => ret | .scd n => scd n | .scu n => scu n | .scr => scr | .scl => scl | .exit => exit
  | .low => low | .high => high | .sys nnn => sys nnn | .jp nnn => jp nnn | .call nnn => call nnn
  | .seK x kk => seK x kk | .sneK x kk => sneK x kk | .seR x y => seR x y | .save x y => save x y
  | .load x y => load x y | .ldK x kk => ldK x kk | .addK x kk => addK x kk | .ldR x y => ldR x y | .or x y => or x y
  | .and x y => and x y | .xor x y => xor x y | .addR x y => addR x y | .sub x y => sub x y | .shr x y => shr x y
  | .subn x y => subn x y | .shl x y => shl x y | .sneR x y => sneR x y | .ldI nnn => ldI nnn | .jpV0 nnn => jpV0 nnn
  | .rnd x kk => rnd x kk | .drw x y n => drw x y n | .drw16 x y => drw16 x y | .skp x => skp x | .sknp x => sknp x
  | .ldILong nnnn => ldILong nnnn | .plane n => plane n | .audio => audio | .ldVxDt x => ldVxDt x
  | .ldKey x => ldKey x | .ldDt x => ldDt x | .ldSt x => ldSt x | .addI x => addI x | .ldF x => ldF x
  | .ldHf x => ldHf x | .bcd x => bcd x | .pitch x => pitch x | .ldMemV x => ldMemV x | .ldVMem x => ldVMem x
  | .srgf x => srgf x | .lrgf x => lrgf x

theorem expected_eq_instr {i : Instr} (h : ∀ nnnn, i ≠ .ldILong nnnn) : expected i = .instr i := by
  fun_cases expected i
  case case1 nnnn => exact absurd rfl (h nnnn)
  case case2 => rfl

theorem eq_sys_of_expected {i : Instr} {nnn : BitVec 12} (h : expected i = .instr (.sys nnn)) : i = .sys nnn := by
  fun_cases expected i
  case case1 => simp [expected] at h
  case case2 hne => simpa [expected_eq_instr hne] using h

end Sys2Proof.Laws.Encoding

namespace Sys2Proof

open Laws.Encoding (expected expected_eq_instr eq_sys_of_expected decodeWord_true_firstWord)

/-- R91, R96: without `SYS_IS_NOP` too, for every instruction but `SYS`. -/
theorem decodeWord_firstWord {i : Instr} {sysIsNop : Bool} (hwf : i.wellFormed = true)
    (hsys : ∀ nnn, i = .sys nnn → sysIsNop = true) : decodeWord sysIsNop (firstWord i) = expected i := by
  have htrue : decodeWord true (firstWord i) = expected i := decodeWord_true_firstWord i hwf
  cases sysIsNop with
  | true => exact htrue
  | false =>
    rw [decodeWord_true] at htrue
    split at htrue
    · cases hsys _ (eq_sys_of_expected htrue.symm)
    · exact htrue

/-- Settles O2: the first word decodes to the instruction (`decodeWord_firstWord`) and the bytes of a word make it
again; `LD I, long` alone takes the word after it too. -/
theorem decodeEncodeRoundTrip : Obligations.DecodeEncodeRoundTrip := by
  intro i sysIsNop rest hwf hsys
  have hword := decodeWord_firstWord hwf hsys
  by_cases hlong : ∃ nnnn, i = .ldILong nnnn
  · obtain ⟨nnnn, rfl⟩ := hlong
    exact decode_of_ldILong hword nnnn rest
  · have hne := not_exists.mp hlong
    rw [encode_eq i hne]
    exact decode_of_instr (hword.trans (expected_eq_instr hne)) rest

end Sys2Proof
end

section
/-! The execution cycle (spec/40_execution_cycle.md R100 to R112): what a step finds at PC, the stops of a batch, the
batch as the run of its steps, and the stopped engine. -/

namespace Sys2Proof.Machine

/-! ### The fetch, by the word at PC (R64, R92, R102) -/

section
variable {s : State} {op : Word}

/-- R102: a word that decodes to a one-word instruction. -/
theorem fetchInstr_of_instr {i : Instr} (hop : fetchWord s.mem s.pc = some op)
    (h : decodeWord s.params.sysIsNop op = .instr i) : fetchInstr s = .instr i := by
  simp only [fetchInstr, hop, h]

/-- R106: a word that does not decode. -/
theorem fetchInstr_of_fail (hop : fetchWord s.mem s.pc = some op)
    (h : decodeWord s.params.sysIsNop op = .fail) : fetchInstr s = .bad := by
  simp only [fetchInstr, hop, h]

/-- R92: the first word of `LD I, long`, with the second word at PC + 2. -/
theorem fetchInstr_of_ldILong {nnnn : Word} (hop : fetchWord s.mem s.pc = some op)
    (h : decodeWord s.params.sysIsNop op = .ldILong) (hop2 : fetchWord s.mem (s.pc + 2#16) = some nnnn) :
    fetchInstr s = .instr (.ldILong nnnn) := by
  simp only [fetchInstr, hop, h, hop2]

/-- The fetch reads memory, PC and `SYS_IS_NOP` alone. -/
theorem fetchInstr_congr {u : State} (hmem : u.mem = s.mem) (hpc : u.pc = s.pc) (hparams : u.params = s.params) :
    fetchInstr u = fetchInstr s := by
  simp only [fetchInstr, hmem, hpc, hparams]

end

/-- R92: bytes that are exactly one instruction are the two of one word, or the four of `LD I, long`. -/
theorem decode_eq_ok_nil {sysIsNop : Bool} {bs : List Byte} {i : Instr} (h : decode sysIsNop bs = .ok (i, [])) :
    (∃ hi lo, bs = [hi, lo] ∧ decodeWord sysIsNop (wordOfBytes hi lo) = .instr i) ∨
      ∃ hi lo hi2 lo2, bs = [hi, lo, hi2, lo2] ∧ decodeWord sysIsNop (wordOfBytes hi lo) = .ldILong ∧
        i = .ldILong (wordOfBytes hi2 lo2) := by
  unfold decode at h
  split at h
  · split at h
    · cases h
      exact .inl ⟨_, _, rfl, ‹_›⟩
    · cases h
    · split at h <;> cases h
      exact .inr ⟨_, _, _, _, rfl, ‹_›, rfl⟩
  · cases h

/-- R64: the bytes read at `a` as a list of two are the bytes of the word at `a`. -/
theorem bytesAt_two {m : Memory} {a n : Nat} {hi lo : Byte}
    (h : ((List.range n).map fun j => memGet m (a + j)) = [hi, lo]) :
    n = 2 ∧ memGet m a = hi ∧ memGet m (a + 1) = lo := by
  obtain rfl : n = 2 := by simpa using congrArg List.length h
  simpa [List.range_succ] using h

/-- R64: the bytes read at `a` as a list of four are those of the words at `a` and `a + 2`. -/
theorem bytesAt_four {m : Memory} {a n : Nat} {hi lo hi2 lo2 : Byte}
    (h : ((List.range n).map fun j => memGet m (a + j)) = [hi, lo, hi2, lo2]) :
    n = 4 ∧ memGet m a = hi ∧ memGet m (a + 1) = lo ∧ memGet m (a + 2) = hi2 ∧ memGet m (a + 3) = lo2 := by
  obtain rfl : n = 4 := by simpa using congrArg List.length h
  simpa [List.range_succ] using h

/-- R64, R92, R102: where the `n` bytes at PC are exactly one instruction, the fetch finds it. -/
theorem fetchInstr_of_decode {s : State} {i : Instr} {n : Nat} (hn : s.pc.toNat + n ≤ Config.memSize)
    (h : decode s.params.sysIsNop ((List.range n).map fun j => memGet s.mem (s.pc.toNat + j)) = .ok (i, [])) :
    fetchInstr s = .instr i := by
  rcases decode_eq_ok_nil h with ⟨hi, lo, hbs, hw⟩ | ⟨hi, lo, hi2, lo2, hbs, hw, rfl⟩
  · obtain ⟨rfl, rfl, rfl⟩ := bytesAt_two hbs
    exact fetchInstr_of_instr (fetchWord_eq_some.2 ⟨hn, rfl⟩) hw
  · obtain ⟨rfl, rfl, rfl, rfl, rfl⟩ := bytesAt_four hbs
    have hpc2 : (s.pc + 2#16).toNat = s.pc.toNat + 2 := by
      simp only [Config.memSize] at hn
      bv_omega
    refine fetchInstr_of_ldILong (fetchWord_eq_some.2 ⟨by omega, rfl⟩) hw (fetchWord_eq_some.2 ⟨by omega, ?_⟩)
    rw [hpc2, wordOfBytes]

/-- Settles O5: the step is an inner step, whose fetch finds the instruction. -/
theorem stepRunsTheDecodedInstruction : Obligations.StepRunsTheDecodedInstruction := by
  intro s i n hf hb hn hdec
  rw [step_of_openBatch hf hb, innerStep, fetchInstr_of_decode hn hdec]

/-- Settles O6: the step is an inner step, whose fetch finds a bad word. -/
theorem illegalWordStopsTheBatch : Obligations.IllegalWordStopsTheBatch := by
  intro s hf hb hpc hfail
  rw [step_of_openBatch hf hb, innerStep, fetchInstr_of_fail (fetchWord_eq_some.2 ⟨hpc, rfl⟩) hfail]
  rfl

/-! ### The stops (R104, R105, R107, R108) -/

/-- R104: an instruction that stops the batch emits its notification and returns its outcome. -/
theorem exec_of_stops {s : State} {i : Instr} {evs : List Event} {o : StepOutcome} (h : Stops s i evs o) :
    exec i s = .next (Stopped { s with events := s.events ++ evs } o) := by
  cases h with
  | exit => rfl
  | loop nnn hself => exact if_pos hself
  | drw x y n hwait | drw16 x y hwait =>
    rw [List.append_nil]
    exact drawInstr_waits _ _ _ hwait

/-- Settles O46: `EXIT` is one of the instructions that stop the batch. -/
theorem exitStopsTheBatch : Obligations.ExitStopsTheBatch := fun _ => exec_of_stops .exit

/-- Settles O53: the premises say that the draw must wait. -/
theorem secondDrawOfABatchWaits : Obligations.SecondDrawOfABatchWaits := by
  intro x y n s hq hd
  have hwait : s.drawMustWait = true := by simp [State.drawMustWait, hq, hd]
  exact ⟨drawInstr_waits _ _ _ hwait, drawInstr_waits _ _ _ hwait⟩

/-! ### A call of `step()` (R100, R101, R112) -/

section
variable {s : State}

/-- R112: a batch of no iterations has returned `Success` when it opens. -/
theorem openBatch_of_empty (h : batchSize s = 0) :
    openBatch s = { s with events := [], drawsInBatch := 0, batchLeft := 0, outcome := some .success } := by
  simp only [openBatch, h, if_true]

/-- R100: any other batch opens with N iterations to go and nothing returned. -/
theorem openBatch_of_pos (h : 0 < batchSize s) :
    openBatch s = { s with events := [], drawsInBatch := 0, batchLeft := batchSize s, outcome := none } := by
  simp only [openBatch, if_neg (Nat.pos_iff_ne_zero.1 h)]

/-- R100, R245: a call of `step()` after a fatal error has no next state. -/
theorem callStep_of_fatal {e : FatalError} (hf : s.fatal = some e) : callStep s = .fault (.sessionOver e) := by
  simp only [callStep, hf]

/-- R112: a call of `step()` with N = 0 only opens the batch. -/
theorem callStep_of_empty (hf : s.fatal = none) (h : batchSize s = 0) : callStep s = .next (openBatch s) := by
  simp only [callStep, hf, if_pos h]

/-- R100: a call of `step()` with N > 0 opens the batch and does the open batch's first step. -/
theorem callStep_of_pos (hf : s.fatal = none) (h : 0 < batchSize s) : callStep s = step (openBatch s) := by
  rw [step_of_openBatch (s := openBatch s) hf h]
  simp only [callStep, hf, if_neg (Nat.pos_iff_ne_zero.1 h)]

/-- R100, R101, R112: what a call of `step()` does to the state, for N = 0 and for N > 0. -/
theorem callStep_opens (hf : s.fatal = none) :
    (batchSize s = 0 → callStep s = .next { s with
      events := [], drawsInBatch := 0, batchLeft := 0, outcome := some .success }) ∧
    (0 < batchSize s → callStep s = step { s with
      events := [], drawsInBatch := 0, batchLeft := batchSize s, outcome := none }) :=
  ⟨fun hN => (callStep_of_empty hf hN).trans (congrArg _ (openBatch_of_empty hN)),
    fun hN => (callStep_of_pos hf hN).trans (congrArg _ (openBatch_of_pos hN))⟩

/-- R100, R245: the batch as one transition has no next state after a fatal error. -/
theorem runBatch_of_fatal {e : FatalError} (hf : s.fatal = some e) : runBatch s = .fault (.sessionOver e) := by
  simp only [runBatch, hf]

/-- R100: the batch as one transition is the loop on the batch it opens. -/
theorem runBatch_of_noFatal (hf : s.fatal = none) : runBatch s = runInner (batchSize s) (openBatch s) := by
  simp only [runBatch, hf]

end

/-- Settles O8: between two batches the host's call is `callStep`. -/
theorem callingStepOpensABatch : Obligations.CallingStepOpensABatch := by
  intro s rest hcall hf
  rw [step_of_call hcall, batchLimit_eq]
  exact callStep_opens (s := { s with inputs := rest }) hf

/-! ### The batch as the run of its steps (R100, R102) -/

/-- `k` steps of the machine, the host's `Host.Core.run` at the model's own types. -/
def runSteps (k : Nat) (s : State) : Result := Sys2Proof.core.run k s

/-- What a run of `k + 1` steps makes of the answer of its first step. -/
def runAfter (k : Nat) : Result → Result
  | .next t => runSteps k t
  | .fault r => .fault r
  | .refused r => .refused r

section
variable {s t : State}

@[simp] theorem runSteps_zero (s : State) : runSteps 0 s = .next s := rfl

theorem runSteps_succ (k : Nat) (s : State) : runSteps (k + 1) s = runAfter k (step s) := by
  have hstep : Sys2Proof.core.step s = step s := rfl
  simp only [runSteps, Host.Core.run, hstep]
  cases step s <;> rfl

theorem runSteps_of_next (h : step s = .next t) (k : Nat) : runSteps (k + 1) s = runSteps k t := by
  rw [runSteps_succ, h, runAfter]

theorem runSteps_of_fault {r : Fault} (h : step s = .fault r) (k : Nat) : runSteps (k + 1) s = .fault r := by
  rw [runSteps_succ, h, runAfter]

/-- Two states with the same step have the same runs of one step and more. -/
theorem runSteps_congr (h : step s = step t) {k : Nat} (hk : 0 < k) : runSteps k s = runSteps k t := by
  obtain ⟨k, rfl⟩ := Nat.exists_eq_add_one.2 hk
  rw [runSteps_succ, runSteps_succ, h]

/-- R100: the loop ends when its iteration has ended the batch. -/
theorem runInner_of_ended (h : innerStep s = .next t) (hb : t.batchLeft = 0) (n : Nat) :
    runInner (n + 1) s = .next t := by
  simp only [runInner, h, if_pos hb]

/-- R100: the loop goes on while the batch is open. -/
theorem runInner_of_open (h : innerStep s = .next t) (hb : 0 < t.batchLeft) (n : Nat) :
    runInner (n + 1) s = runInner n t := by
  simp only [runInner, h, if_neg (Nat.pos_iff_ne_zero.1 hb)]

/-- R111, R245: an inner step that leaves the batch open has raised nothing. -/
theorem innerStep_leaves_open (h : innerStep s = .next t) (hb : 0 < t.batchLeft) : t.fatal = s.fatal := by
  rcases innerStep_cases s with ⟨e, -, heq⟩ | ⟨-, heq⟩ | ⟨i, -, heq⟩
  · cases heq.symm.trans h
    exact absurd hb (Nat.lt_irrefl 0)
  · cases heq.symm.trans h
    exact absurd hb (Nat.lt_irrefl 0)
  · obtain ⟨-, hfatal, -⟩ := exec_leaves_open (heq.symm.trans h) hb
    exact hfatal

/-- R100: at most n iterations of the loop of an open batch are at most n steps of the machine; by induction on n, each
iteration being one step, after which the batch has ended or is open still. -/
theorem runInner_eq_runSteps (n : Nat) (hf : s.fatal = none) (hb : 0 < s.batchLeft) :
    ∃ k ≤ n, (0 < n → 0 < k) ∧ runSteps k s = runInner n s := by
  induction n generalizing s with
  | zero => exact ⟨0, le_rfl, id, rfl⟩
  | succ n ih =>
    obtain ⟨t, ht⟩ := innerStep_next s
    have hstep : step s = .next t := (step_of_openBatch hf hb).trans ht
    rcases Nat.eq_zero_or_pos t.batchLeft with hended | hopen
    · refine ⟨1, by omega, fun _ => Nat.one_pos, ?_⟩
      rw [runSteps_of_next hstep, runInner_of_ended ht hended, runSteps_zero]
    · obtain ⟨k, hk, -, hrest⟩ := ih ((innerStep_leaves_open ht hopen).trans hf) hopen
      refine ⟨k + 1, by omega, fun _ => Nat.succ_pos k, ?_⟩
      rw [runSteps_of_next hstep, runInner_of_open ht hopen, hrest]

/-- R100: a state `s` whose step is a call of `step()` at `u`, whose batch has N iterations, does the whole batch in at
most max(1, N) steps: the call after a fatal error and the call with N = 0 are one step; any other has the steps of the
batch it opens, its own step being the first of these. -/
theorem runBatch_eq_runSteps {u : State} (hstep : step s = callStep u) :
    ∃ k, 1 ≤ k ∧ k ≤ max 1 (batchSize u) ∧ runSteps k s = runBatch u := by
  cases hf : u.fatal with
  | some e =>
    refine ⟨1, le_rfl, le_max_left _ _, ?_⟩
    rw [runSteps_of_fault (hstep.trans (callStep_of_fatal hf)), runBatch_of_fatal hf]
  | none =>
    rw [runBatch_of_noFatal hf]
    rcases Nat.eq_zero_or_pos (batchSize u) with hN | hN
    · refine ⟨1, le_rfl, le_max_left _ _, ?_⟩
      rw [runSteps_of_next (hstep.trans (callStep_of_empty hf hN)), hN, runSteps_zero, runInner]
    · obtain ⟨k, hle, hpos, hrun⟩ := runInner_eq_runSteps (s := openBatch u) (batchSize u) hf hN
      have hfirst : step s = step (openBatch u) := hstep.trans (callStep_of_pos hf hN)
      exact ⟨k, hpos hN, le_max_of_le_right hle, (runSteps_congr hfirst (hpos hN)).trans hrun⟩

end

/-- Settles O19: between two batches the host's call is `callStep`, and the whole batch is the run of its steps. -/
theorem batchIsTheRunOfItsSteps : Obligations.BatchIsTheRunOfItsSteps := by
  intro s rest hcall
  rw [batchLimit_eq]
  exact runBatch_eq_runSteps (step_of_call hcall)

/-! ### A stopped engine (R104, R110) -/

section
variable {s t : State}

/-- R245: an open batch that has a step has no fatal error, and its step is an inner step. -/
theorem innerStep_of_step (hb : 0 < s.batchLeft) (h : step s = .next t) : s.fatal = none ∧ innerStep s = .next t := by
  rcases step_cases s with ⟨-, hf, heq⟩ | ⟨-, e, -, heq⟩ | ⟨h0, -⟩ | ⟨h0, -⟩
  · exact ⟨hf, heq.symm.trans h⟩
  · cases heq.symm.trans h
  · omega
  · omega

/-- R102, R104: an inner step that returns `Exit`, `BadOpCode` or `Loop` has stopped the batch, with notifications and
an outcome that only memory, PC and the parameters decide: any state that has these stops alike. -/
theorem innerStep_stops (hs : s.outcome = none) (h : innerStep s = .next t)
    (ho : t.outcome = some .exit ∨ t.outcome = some .badOpCode ∨ t.outcome = some .loop) :
    ∃ evs o, t = Stopped { s with events := s.events ++ evs } o ∧
      ∀ u : State, u.mem = s.mem → u.pc = s.pc → u.params = s.params →
        innerStep u = .next (Stopped { u with events := u.events ++ evs } o) := by
  rcases innerStep_cases s with ⟨e, -, heq⟩ | ⟨hbad, heq⟩ | ⟨i, hinstr, heq⟩
  · cases heq.symm.trans h
    simp at ho
  · cases heq.symm.trans h
    refine ⟨[], .badOpCode, by rw [List.append_nil]; rfl, fun u hmem hpc hparams => ?_⟩
    rw [innerStep, fetchInstr_congr hmem hpc hparams, hbad, List.append_nil]
    rfl
  · obtain ⟨t', ht', hends⟩ := exec_ends i s
    cases (heq.trans ht').symm.trans h
    cases hends with
    | completed v keeps =>
      simp only [State.retire_outcome, keeps.outcome, hs] at ho
      split at ho <;> simp at ho
    | failed e => simp at ho
    | stopped evs o stops =>
      refine ⟨evs, o, rfl, fun u hmem hpc hparams => ?_⟩
      rw [innerStep, fetchInstr_congr hmem hpc hparams, hinstr]
      cases stops with
      | exit => exact exec_of_stops .exit
      | loop nnn hself => exact exec_of_stops (.loop nnn (hself.trans hpc.symm))
      | drw | drw16 => simp at ho

end

/-- Settles O20: the next call opens a batch, which leaves memory, PC and the parameters, so that its first step stops
as the last step did (`innerStep_stops`). -/
theorem stoppedEngineStopsAgain : Obligations.StoppedEngineStopsAgain := by
  intro s t hb hs hstep hinputs hN ho
  obtain ⟨hf, hinner⟩ := innerStep_of_step hb hstep
  obtain ⟨evs, o, rfl, hagain⟩ := innerStep_stops hs hinner ho
  set t := Stopped { s with events := s.events ++ evs } o
  rw [batchLimit_eq] at hN
  have hcall : step t = step (openBatch t) := by
    rw [step_of_call (rest := []) ⟨rfl, .inr ⟨hinputs, rfl⟩⟩, ← hinputs]
    exact callStep_of_pos hf hN
  have hopen : step (openBatch t) = innerStep (openBatch t) := step_of_openBatch hf hN
  exact ⟨_, hcall.trans (hopen.trans (hagain _ rfl rfl rfl)), rfl⟩

end Sys2Proof.Machine
end

section
/-! Control flow (spec/41_control_flow.md R120 to R127, R130): the jumps, `CALL` and `RET` with the return stack, and the
skips. Each instruction is said once, as the end it comes to under its condition; the statements are read off these. -/

namespace Sys2Proof.Machine

/-! ### Jumps (R120, R123) -/

theorem addrOf_toNat (nnn : BitVec 12) : (addrOf nnn).toNat = nnn.toNat :=
  BitVec.toNat_setWidth_of_le (by decide)

theorem addrOf_eq_iff {nnn : BitVec 12} {a : Addr} : addrOf nnn = a ↔ nnn.toNat = a.toNat := by
  rw [← BitVec.toNat_inj, addrOf_toNat]

/-- R64, R120: of the addresses a jump can name, 0xFFF alone has no whole word before the end of memory. -/
theorem fetchWord_addrOf_eq_none {m : Memory} {nnn : BitVec 12} :
    fetchWord m (addrOf nnn) = none ↔ nnn = 0xFFF#12 := by
  rw [fetchWord_eq_none, addrOf_toNat, Config.memSize]
  bv_omega

/-- R120: a jump that is no loop completes. -/
theorem exec_jp_of_ne {s : State} {nnn : BitVec 12} (h : addrOf nnn ≠ s.pc) :
    exec (.jp nnn) s = done (s.setPc (addrOf nnn)) :=
  if_neg h

/-- Settles O41: a jump away completes, with the fetch of `fetchWord_addrOf_eq_none`; a jump to itself is one of the
instructions that stop the batch. -/
theorem jumpSetsPcOrReportsALoop : Obligations.JumpSetsPcOrReportsALoop := by
  intro nnn s
  refine ⟨fun hne => ?_, fun hself => exec_of_stops (.loop nnn (addrOf_eq_iff.2 hself))⟩
  exact ⟨_, exec_jp_of_ne (mt addrOf_eq_iff.1 hne), addrOf_toNat nnn, fetchWord_addrOf_eq_none, counted_retire rfl⟩

/-- R123: under `Q.jump_vx` the offset register is the upper nibble of nnn, as a number. -/
theorem jumpRegister_eq (q : Quirks) (nnn : BitVec 12) :
    jumpRegister q nnn = if q.jumpVx then BitVec.ofNat 4 (nnn.toNat / 256) else 0#4 := by
  rw [jumpRegister, BitVec.extractLsb', Nat.shiftRight_eq_div_pow]

/-- R123, D39: the sum of a 12-bit address and a byte does not wrap. -/
theorem offsetTarget_toNat (s : State) (nnn : BitVec 12) :
    (offsetTarget s nnn).toNat = nnn.toNat + (s.getV (jumpRegister s.quirks nnn)).toNat := by
  rw [offsetTarget, addrOf, zextByte]
  bv_omega

/-- Settles O44: the jump completes whatever its target (D25), which is `offsetTarget`. -/
theorem offsetJumpAddsTheRegister : Obligations.OffsetJumpAddsTheRegister := by
  intro nnn s
  rw [← jumpRegister_eq]
  exact ⟨_, rfl, offsetTarget_toNat s nnn, counted_retire rfl⟩

/-! ### The return stack (R27, R121, R122) -/

section
variable {s : State} {nnn : BitVec 12}

/-- R121, D6: with room on the stack `CALL` pushes the address after it and jumps. -/
theorem exec_call_of_room (h : s.stack.length < Config.stackDepth) :
    exec (.call nnn) s = done ({ s with stack := (s.pc + 2#16) :: s.stack }.setPc (addrOf nnn)) := by
  simp only [exec, execCall, stackPush, if_pos h]

/-- R121: with 16 addresses on the stack `CALL` raises `StackFull`. -/
theorem exec_call_of_full (h : Config.stackDepth ≤ s.stack.length) :
    exec (.call nnn) s = .next (s.raise (.stackFull s.pc (firstWord (.call nnn)))) := by
  simp only [exec, execCall, stackPush, if_neg (Nat.not_lt.2 h)]

/-- R122: `RET` pops the newest address into PC. -/
theorem exec_ret_of_cons {a : Addr} {rest : List Addr} (h : s.stack = a :: rest) :
    exec .ret s = done ({ s with stack := rest }.setPc a) := by
  simp only [exec, execRet, stackPop, h]

/-- R122: `RET` on an empty stack raises `StackEmpty`. -/
theorem exec_ret_of_empty (h : s.stack = []) :
    exec .ret s = .next (s.raise (.stackEmpty s.pc (firstWord .ret))) := by
  simp only [exec, execRet, stackPop, h]

end

/-- Settles O42: the two ends of `CALL` and the two of `RET`. -/
theorem callPushesAndRetPops : Obligations.CallPushesAndRetPops := by
  intro nnn s
  refine ⟨fun hroom => ?_, fun hfull => exec_call_of_full hfull, fun a rest hstack => ?_, fun hempty => ?_⟩
  · exact ⟨_, exec_call_of_room hroom, addrOf_toNat nnn, counted_retire rfl⟩
  · exact ⟨_, exec_ret_of_cons hstack, counted_retire rfl⟩
  · exact exec_ret_of_empty hempty

/-- Settles O43: the stack that `RET` finds has on top the address that `CALL` pushed, and below it the caller's. -/
theorem retReturnsAfterTheCall : Obligations.RetReturnsAfterTheCall := by
  intro nnn s t u hroom hcall hstack
  cases (exec_call_of_room hroom).symm.trans hcall
  exact ⟨counted_retire rfl, _, exec_ret_of_cons hstack, counted_retire rfl⟩

/-! ### Skips (R124 to R127) -/

/-- Settles O45: each of the four completes as a `skipIf` on its own condition, which writes PC alone. -/
theorem skipsAdvanceTwoOrFour : Obligations.SkipsAdvanceTwoOrFour := by
  intro x y kk s c hc
  have hexec : exec c.1 s = done (s.skipIf c.2) := by
    simp only [List.mem_cons, List.not_mem_nil, or_false] at hc
    rcases hc with rfl | rfl | rfl | rfl <;> rfl
  exact ⟨_, hexec, counted_retire rfl⟩

end Sys2Proof.Machine
end

section
/-! Arithmetic and logic (spec/42_arithmetic_logic.md R140 to R151). An instruction here writes one register, or a
bitwise result, or a result and its flag, and advances PC: what it leaves is said once for each of the three, and what a
result and its flag are as numbers once for each computation of the two. -/

namespace Sys2Proof.Machine

section
variable {s : State} {i : Instr} {x : RegIdx}

/-! ### The three ends of an arithmetic instruction -/

/-- R140 to R142, R151: one register is written; `u` is the state with any other field the instruction writes. -/
theorem exec_of_setV {u : State} {b : Byte} (h : exec i s = done (u.setV x b).advance) :
    ∃ t, exec i s = .next t ∧ (∀ k, t.getV k = if k = x then b else u.getV k) ∧
      Counted { u with v := t.v, pc := u.pc + 2#16 } t :=
  ⟨_, h, fun k => getV_setV u x k b, counted_retire rfl⟩

/-- R143 to R145: a bitwise result is written, and VF is cleared under `Q.vf_reset`. -/
theorem exec_of_setBitwise {b : Byte} (h : exec i s = done (s.setBitwise x b).advance) :
    ∃ t, exec i s = .next t ∧
      (∀ k, t.getV k = if s.quirks.vfReset = true ∧ k = 15#4 then 0#8 else if k = x then b else s.getV k) ∧
      Counted { s with v := t.v, pc := s.pc + 2#16 } t :=
  ⟨_, h, getV_setBitwise s x b, counted_retire (congrArg State.advance (setBitwise_frame s x b))⟩

/-- R146 to R150, D7: a result of number `n` goes to V[x] and its flag, of number `c`, to VF, also when x is 15. -/
theorem exec_of_setResult {r : Byte × Bool} {n c : Nat} (h : exec i s = done (s.setResult x r).advance)
    (hn : r.1.toNat = n) (hc : r.2.toNat = c) :
    ∃ t, exec i s = .next t ∧ (x ≠ 15#4 → (t.getV x).toNat = n) ∧ (t.getV 15#4).toNat = c ∧
      (∀ k, k ≠ x → k ≠ 15#4 → t.getV k = s.getV k) ∧ Counted { s with v := t.v, pc := s.pc + 2#16 } t := by
  have hget : ∀ k, (s.setResult x r).advance.retire.getV k =
      if k = 15#4 then (if r.2 then 1#8 else 0#8) else if k = x then r.1 else s.getV k := getV_setResult s x r
  refine ⟨_, h, fun hx => ?_, ?_, fun k hkx hkf => ?_, counted_retire rfl⟩
  · rw [hget, if_neg hx, if_pos rfl, hn]
  · rw [hget, if_pos rfl, ← hc]
    cases r.2 <;> rfl
  · rw [hget, if_neg hkf, if_neg hkx]

end

/-! ### Results and flags as numbers (R146 to R150) -/

section
variable (a b : Byte)

theorem addFlag_fst_toNat : (addFlag a b).1.toNat = (a.toNat + b.toNat) % 256 := BitVec.toNat_ofNat ..

theorem addFlag_snd_toNat : (addFlag a b).2.toNat = if a.toNat + b.toNat > 255 then 1 else 0 := Bool.cond_decide ..

theorem subFlag_fst_toNat : (subFlag a b).1.toNat = (256 + a.toNat - b.toNat) % 256 := by
  rw [subFlag, BitVec.toNat_sub]
  omega

theorem subFlag_snd_toNat : (subFlag a b).2.toNat = if a.toNat ≥ b.toNat then 1 else 0 := Bool.cond_decide ..

theorem shrFlag_fst_toNat : (shrFlag a).1.toNat = a.toNat / 2 := BitVec.toNat_ushiftRight ..

/-- R148, D8: the right shift loses the least significant bit. -/
theorem shrFlag_snd_toNat : (shrFlag a).2.toNat = a.toNat % 2 := by
  rw [shrFlag, BitVec.getLsbD, Nat.toNat_testBit, Nat.pow_zero, Nat.div_one]

theorem shlFlag_fst_toNat : (shlFlag a).1.toNat = a.toNat * 2 % 256 := by
  rw [shlFlag, BitVec.toNat_shiftLeft, Nat.shiftLeft_eq]

/-- R150, D8: the left shift loses the most significant bit. -/
theorem shlFlag_snd_toNat : (shlFlag a).2.toNat = a.toNat / 128 := by
  rw [shlFlag, BitVec.getLsbD, Nat.toNat_testBit]
  omega

end

/-! ### The statements -/

/-- Settles O26: each of the three is the end `exec_of_setBitwise` of its own result. -/
theorem bitwiseOpsAndVfReset : Obligations.BitwiseOpsAndVfReset := by
  intro x y s c hc
  have hexec : exec c.1 s = done (s.setBitwise x c.2).advance := by
    simp only [List.mem_cons, List.not_mem_nil, or_false] at hc
    rcases hc with rfl | rfl | rfl <;> rfl
  exact exec_of_setBitwise hexec

/-- Settles O27: the result and flag are `addFlag`. -/
theorem addSetsCarry : Obligations.AddSetsCarry := fun _ _ _ =>
  exec_of_setResult rfl (addFlag_fst_toNat _ _) (addFlag_snd_toNat _ _)

/-- Settles O28: the result and flag are `subFlag`, of the operands in the instruction's own order. -/
theorem subtractionsSetNoBorrow : Obligations.SubtractionsSetNoBorrow := by
  intro x y s c hc
  have hexec : exec c.1 s = done (s.setResult x (subFlag c.2.1 c.2.2)).advance := by
    simp only [List.mem_cons, List.not_mem_nil, or_false] at hc
    rcases hc with rfl | rfl <;> rfl
  exact exec_of_setResult hexec (subFlag_fst_toNat _ _) (subFlag_snd_toNat _ _)

/-- Settles O29: the result and flag are `shrFlag` or `shlFlag`, of the byte that `shiftSource` chooses. -/
theorem shiftsSetTheBitShiftedOut : Obligations.ShiftsSetTheBitShiftedOut := by
  intro x y s src c hc
  simp only [List.mem_cons, List.not_mem_nil, or_false] at hc
  rcases hc with rfl | rfl
  · exact exec_of_setResult rfl (shrFlag_fst_toNat (shiftSource s x y)) (shrFlag_snd_toNat _)
  · exact exec_of_setResult rfl (shlFlag_fst_toNat (shiftSource s x y)) (shlFlag_snd_toNat _)

/-- Settles O24: both are the end `exec_of_setV`. -/
theorem loadsOfVxWriteVxAlone : Obligations.LoadsOfVxWriteVxAlone := fun _ _ =>
  ⟨fun _ => exec_of_setV rfl, fun _ => exec_of_setV rfl⟩

/-- Settles O25: the one register written gets the sum of two bytes, VF being no other than x. -/
theorem addByteWrapsWithoutFlag : Obligations.AddByteWrapsWithoutFlag := by
  intro x kk s
  obtain ⟨t, hexec, hget, hcounted⟩ := exec_of_setV (s := s) (i := .addK x kk) rfl
  refine ⟨t, hexec, ?_, fun k hk => ?_, hcounted⟩
  · rw [hget, if_pos rfl, BitVec.toNat_add]
  · rw [hget, if_neg hk]

/-- Settles O30: the one register written gets the masked byte, in the state whose draw is counted. -/
theorem randomByteIsMasked : Obligations.RandomByteIsMasked := fun _ _ s =>
  exec_of_setV (u := { s with randDraws := s.randDraws + 1 }) rfl

end Sys2Proof.Machine
end

section
/-! The index register, memory transfers and flag storage (spec/43_index_and_memory.md R160 to R171). A register range
and a transfer into it are said once, by their j-th element; a checked store at I once for its two ends. -/

namespace Sys2Proof.Machine

/-! ### The index register (R160 to R164) -/

/-- Settles O31: the address is `addrOf`, which keeps the number. -/
theorem loadIndexZeroExtends : Obligations.LoadIndexZeroExtends := fun nnn _ =>
  ⟨_, rfl, addrOf_toNat nnn, counted_retire rfl⟩

/-- R64, R161: where memory ends before the second word of `LD I, long` the fetch is fatal. -/
theorem fetchInstr_of_ldILong_overruns {s : State} {op : Word} (hop : fetchWord s.mem s.pc = some op)
    (h : decodeWord s.params.sysIsNop op = .ldILong) (hover : Config.memSize < (s.pc + 2#16).toNat + 2) :
    fetchInstr s = .fatal (.memReadOutOfRange (s.pc + 2#16) 2 s.pc (some op)) := by
  simp only [fetchInstr, hop, h, fetchWord_eq_none.2 hover]

/-- R161: the two advances by 2, of the fetch and of the execution, are one by 4. -/
theorem exec_ldILong (nnnn : Word) (s : State) :
    exec (.ldILong nnnn) s = done { s with i := nnnn, pc := s.pc + 4#16 } := by
  have hpc : s.pc + 4#16 = s.pc + 2#16 + 2#16 := by bv_omega
  rw [hpc]
  rfl

/-- R85: the first word of `LD I, long`, under either value of `SYS_IS_NOP`. -/
theorem decodeWord_F000 (sysIsNop : Bool) : decodeWord sysIsNop (0xF0#8 ++ 0x00#8) = .ldILong := by
  cases sysIsNop <;> decide

/-- Settles O32: the step is an inner step, whose fetch finds `LD I, long` or, past memory, no second word. -/
theorem longLoadOfIndex : Obligations.LongLoadOfIndex := by
  refine ⟨fun nnnn s => ⟨_, exec_ldILong nnnn s, counted_retire rfl⟩, fun s hf hb hpc hhi hlo => ?_⟩
  have hpc2 : (s.pc + 2#16).toNat = s.pc.toNat + 2 := by bv_omega
  have hop : fetchWord s.mem s.pc = some (0xF0#8 ++ 0x00#8) := fetchWord_eq_some.2 ⟨hpc, by rw [hhi, hlo]⟩
  have hdec := decodeWord_F000 s.params.sysIsNop
  rw [step_of_openBatch hf hb, innerStep]
  refine ⟨fun hfits => ?_, fun hover => ?_⟩
  · have hop2 : fetchWord s.mem (s.pc + 2#16) = some (memGet s.mem (s.pc.toNat + 2) ++ memGet s.mem (s.pc.toNat + 3)) :=
      fetchWord_eq_some.2 ⟨by rw [hpc2]; exact hfits, by rw [hpc2]⟩
    rw [fetchInstr_of_ldILong hop hdec hop2]
    exact ⟨_, exec_ldILong _ s, counted_retire rfl⟩
  · rw [fetchInstr_of_ldILong_overruns hop hdec (by rw [hpc2]; exact hover)]
    rfl

/-- Settles O33: the sum and its overflow are `indexSum`; the overflow goes to VF under `Q.add_i_carry` only. -/
theorem addIndexAndItsCarry : Obligations.AddIndexAndItsCarry := by
  intro x s
  have hsum : (indexSum s.i (s.getV x)).1.toNat = (s.i.toNat + (s.getV x).toNat) % 65536 := BitVec.toNat_ofNat ..
  obtain ⟨t, hexec⟩ := exec_next (.addI x) s
  refine ⟨t, hexec, ?_⟩
  rcases exec_addI_cases hexec with ⟨hq, rfl⟩ | ⟨hq, rfl⟩
  · refine ⟨hsum, fun _ => ?_, fun k hk => ?_, counted_retire rfl⟩
    · rw [getV_retire, getV_advance, getV_setCarry, if_pos rfl, indexSum]
      simp only [decide_eq_true_eq]
      split <;> rfl
    · have hkf : k ≠ 15#4 := hk.resolve_right (by simp [hq])
      rw [getV_retire, getV_advance, getV_setCarry, if_neg hkf, getV_setI]
  · exact ⟨hsum, fun h => absurd h hq, fun _ _ => rfl, counted_retire rfl⟩

/-- R10, D12: the low nibble of a byte as an address. -/
theorem zextByte_lowNibble_toNat (b : Byte) : (zextByte (b &&& 0x0F#8)).toNat = b.toNat % 16 := by
  rw [zextByte, BitVec.toNat_setWidth_of_le (by decide), BitVec.toNat_and]
  exact Nat.and_two_pow_sub_one_eq_mod b.toNat 4

theorem smallGlyph_toNat (b : Byte) : (smallGlyph b).toNat = 0x050 + 5 * (b.toNat % 16) := by
  have := zextByte_lowNibble_toNat b
  rw [smallGlyph]
  bv_omega

theorem bigGlyph_toNat (b : Byte) : (bigGlyph b).toNat = 0x0A0 + 10 * (b.toNat % 16) := by
  have := zextByte_lowNibble_toNat b
  rw [bigGlyph]
  bv_omega

/-- Settles O34: I gets `smallGlyph` or `bigGlyph` of V[x]. -/
theorem fontPointersReachTheGlyph : Obligations.FontPointersReachTheGlyph := by
  intro x s c hc
  simp only [List.mem_cons, List.not_mem_nil, or_false] at hc
  rcases hc with rfl | rfl
  · exact ⟨_, rfl, smallGlyph_toNat _, counted_retire rfl⟩
  · exact ⟨_, rfl, bigGlyph_toNat _, counted_retire rfl⟩

/-! ### Ranges and transfers by their elements -/

/-- R168, R169: the j-th register of a range, counted up or down from its first. -/
theorem getElem_regRange_eq (x y : RegIdx) {j : Nat} (h : j < (regRange x y).length) :
    (regRange x y)[j] = if x.toNat ≤ y.toNat then x + BitVec.ofNat 4 j else x - BitVec.ofNat 4 j := by
  have hj := getElem_regRange x y j h
  rw [length_regRange] at h
  apply BitVec.eq_of_toNat_eq
  rw [hj]
  split <;> bv_omega

/-- R166: V0 to Vx are in the order of their numbers. -/
theorem getElem_regsUpTo_toNat {x k : RegIdx} (h : k.toNat < (regsUpTo x).length) : (regsUpTo x)[k.toNat] = k :=
  BitVec.eq_of_toNat_eq (getElem_regsUpTo x k.toNat h)

/-- The j-th byte of the registers of a list is the j-th register. -/
theorem getElem_getRegs (s : State) (xs : List RegIdx) {j : Nat} (h : j < (s.getRegs xs).length) :
    (s.getRegs xs)[j] = s.getV (xs[j]'(by simpa using h)) :=
  List.getElem_map ..

/-- R167, R171: bytes for V0 to Vx go each to its register, and no other register changes. -/
theorem getV_setRegs_regsUpTo (s : State) {x : RegIdx} {bs : List Byte} (hbs : bs.length = x.toNat + 1) (k : RegIdx) :
    (s.setRegs (regsUpTo x) bs).getV k = if h : k.toNat ≤ x.toNat then bs[k.toNat] else s.getV k := by
  split
  case isTrue h =>
    have hk : k.toNat < (regsUpTo x).length := by
      rw [length_regsUpTo]
      omega
    have hget := getV_setRegs_getElem s (regsUpTo x) bs (nodup_regRange 0#4 x) k.toNat hk (by omega)
    rwa [getElem_regsUpTo_toNat hk] at hget
  case isFalse h => exact getV_setRegs_of_not_mem _ _ _ _ (mt (mem_regsUpTo x k).1 h)

/-- R166, R167: a transfer that stays in memory leaves I at the byte after it under `Q.index_increment`; the sum does
not wrap. -/
theorem bumpI_i_toNat {s : State} {n : Nat} (h : s.i.toNat + n ≤ Config.memSize) :
    (s.bumpI n).i.toNat = if s.quirks.indexIncrement then s.i.toNat + n else s.i.toNat := by
  rw [State.bumpI_i]
  simp only [Config.memSize] at h
  split
  · rw [BitVec.toNat_add, BitVec.toNat_ofNat]
    omega
  · rfl

/-! ### Stores at I (R165, R166, R168) -/

/-- R62, R165, R166, R168: the two ends of an instruction that stores `n` bytes at I, leaves I at `a` and advances. -/
theorem exec_of_store {i : Instr} {s : State} {bs : List Byte} {n : Nat} {a : Addr} {k : State → State}
    (hm : s.mem.wf) (hexec : exec i s = withWrite i s.i bs s k) (hn : bs.length = n)
    (hk : ∀ m, k { s with mem := m } = { s with mem := m, i := a, pc := s.pc + 2#16 }) :
    (s.i.toNat + n ≤ 4096 → ∃ t, exec i s = .next t ∧
      (∀ j, (h : j < bs.length) → memGet t.mem (s.i.toNat + j) = bs[j]) ∧
      (∀ b, b < s.i.toNat ∨ s.i.toNat + n ≤ b → memGet t.mem b = memGet s.mem b) ∧
      t.i = a ∧ Counted { s with mem := t.mem, i := a, pc := s.pc + 2#16 } t) ∧
    (4096 < s.i.toNat + n → exec i s =
      .next (Failed s (.memoryOverflow s.i n s.pc (some (firstWord i))))) := by
  subst hn
  refine ⟨fun hfits => ?_, fun hover => hexec.trans (withWrite_of_overruns i s k hover)⟩
  rw [withWrite_of_fits i s k hfits, hk] at hexec
  exact ⟨_, hexec, fun j hj => memGet_memSetAll_inside hm hfits hj, fun b hb => memGet_memSetAll_outside hm hfits hb,
    rfl, counted_retire rfl⟩

/-- Settles O35: the store is of the three bytes of `bcdDigits`, each a digit below 10. -/
theorem bcdStoresThreeDigits : Obligations.BcdStoresThreeDigits := by
  intro x s hm
  obtain ⟨stores, overflows⟩ := exec_of_store (i := .bcd x) hm rfl (n := 3) rfl fun _ => rfl
  refine ⟨fun hfits => ?_, overflows⟩
  obtain ⟨t, hexec, hin, hout, -, hcounted⟩ := stores hfits
  have hv := (s.getV x).isLt
  refine ⟨t, hexec, ?_, ?_, ?_, hout, hcounted⟩
  · rw [← Nat.add_zero s.i.toNat, hin 0 (by simp [bcdDigits])]
    exact Nat.mod_eq_of_lt (by omega)
  · rw [hin 1 (by simp [bcdDigits])]
    exact Nat.mod_eq_of_lt (by omega)
  · rw [hin 2 (by simp [bcdDigits])]
    exact Nat.mod_eq_of_lt (by omega)

/-- Settles O36: the store is of the registers of `regsUpTo`, and I is left as `bumpI` leaves it. -/
theorem storeRegistersAtIndex : Obligations.StoreRegistersAtIndex := by
  intro x s hm
  have hlen : (s.getRegs (regsUpTo x)).length = x.toNat + 1 := by rw [length_getRegs, length_regsUpTo]
  have hexec : exec (.ldMemV x) s = withWrite (.ldMemV x) s.i (s.getRegs (regsUpTo x)) s
      fun t => (t.bumpI (x.toNat + 1)).advance := rfl
  obtain ⟨stores, overflows⟩ := exec_of_store (a := (s.bumpI (x.toNat + 1)).i) hm hexec hlen fun m => by
    rw [bumpI_frame, State.bumpI_i, State.bumpI_i]
    rfl
  refine ⟨fun hfits => ?_, overflows⟩
  obtain ⟨t, hexec, hin, hout, hi, hcounted⟩ := stores hfits
  refine ⟨t, hexec, fun k hk => ?_, hout, ?_, by rwa [hi]⟩
  · rw [hin k.toNat (by omega), getElem_getRegs, getElem_regsUpTo_toNat]
  · rw [hi]
    exact bumpI_i_toNat hfits

/-- Settles O38: the store is of the registers of `regRange`, in its order. -/
theorem saveRangeStoresInOrder : Obligations.SaveRangeStoresInOrder := by
  intro x y s hm n
  have hlen : (s.getRegs (regRange x y)).length = n := by rw [length_getRegs, length_regRange]
  obtain ⟨stores, overflows⟩ := exec_of_store (i := .save x y) hm rfl hlen fun _ => rfl
  refine ⟨fun hfits => ?_, overflows⟩
  obtain ⟨t, hexec, hin, hout, -, hcounted⟩ := stores hfits
  refine ⟨t, hexec, fun j hj => ?_, hout, hcounted⟩
  rw [hin j (hj.trans_eq hlen.symm), getElem_getRegs, getElem_regRange_eq]

/-! ### Loads from I (R167, R169) -/

/-- Settles O37: the bytes read go to the registers of `regsUpTo`, and I is left as `bumpI` leaves it. -/
theorem loadRegistersFromIndex : Obligations.LoadRegistersFromIndex := by
  intro x s
  refine ⟨fun hfits => ⟨_, withRead_of_fits _ s _ (.inr hfits), fun k => ?_, ?_, counted_retire ?_⟩,
    fun hover => withRead_of_overruns _ s _ (Nat.succ_ne_zero _) hover⟩
  · rw [getV_retire, getV_advance, getV_bumpI, getV_setRegs_regsUpTo s (by simp)]
    simp
  · rw [State.retire_i, State.advance_i, State.bumpI_i, State.setRegs_quirks, State.setRegs_i, ← State.bumpI_i]
    exact bumpI_i_toNat hfits
  · rw [State.retire_v, State.advance_v, State.bumpI_v, State.retire_i, State.advance_i, bumpI_frame, setRegs_frame]
    rfl

/-- Settles O39: the bytes read go to the registers of `regRange`, in its order. -/
theorem loadRangeLoadsInOrder : Obligations.LoadRangeLoadsInOrder := by
  intro x y s n
  have hlen : (regRange x y).length = n := length_regRange x y
  refine ⟨fun hfits => ⟨_, withRead_of_fits _ s _ (.inr (by rwa [hlen])), fun j hj => ?_, fun k hk => ?_,
    counted_retire ?_⟩, fun hover => ?_⟩
  · have hj' : j < (regRange x y).length := hj.trans_eq hlen.symm
    rw [← getElem_regRange_eq x y hj', getV_retire, getV_advance,
      getV_setRegs_getElem s _ _ (nodup_regRange x y) j hj' (by rwa [List.length_map, List.length_range, hlen])]
    simp
  · refine getV_setRegs_of_not_mem s _ _ k fun hmem => ?_
    have := (mem_regRange x y k).1 hmem
    omega
  · exact congrArg State.advance (setRegs_frame s _ _)
  · rw [← hlen]
    exact withRead_of_overruns _ s _ (by simp) (by rwa [hlen])

/-! ### Flag storage (R170, R171) -/

/-- R170: V0 to Vx go each to the element of its number, and no other element changes. -/
theorem getElem_flagSetAll_regsUpTo (s : State) (x k : RegIdx) :
    (flagSetAll s.flags 0 (s.getRegs (regsUpTo x)))[k.toNat] =
      if k.toNat ≤ x.toNat then s.getV k else s.flags[k.toNat] := by
  rw [getElem_flagSetAll, length_getRegs, length_regsUpTo]
  by_cases h : k.toNat ≤ x.toNat
  · have hk : k.toNat < (regsUpTo x).length := by
      rw [length_regsUpTo]
      omega
    rw [if_pos h, if_pos (by omega), Nat.sub_zero, getD_getRegs s _ _ hk, getElem_regsUpTo_toNat]
  · rw [if_neg h, if_neg (by omega)]

/-- Settles O40: both complete for every x; the registers go to, or come from, the elements of their own numbers. -/
theorem flagStorageSavesAndRestores : Obligations.FlagStorageSavesAndRestores := by
  intro x s
  refine ⟨⟨_, exec_srgf x s, fun k => ?_, counted_retire rfl⟩, ⟨_, exec_lrgf x s, fun k => ?_, counted_retire ?_⟩⟩
  · exact getElem_flagSetAll_regsUpTo s x k
  · have hlen : (s.flags.toList.take (x.toNat + 1)).length = x.toNat + 1 := by
      rw [List.length_take, Vector.length_toList]
      omega
    rw [getV_retire, getV_advance, getV_setRegs_regsUpTo s hlen]
    simp only [List.getElem_take, Vector.getElem_toList]
    rfl
  · exact congrArg State.advance (setRegs_frame s _ _)

end Sys2Proof.Machine
end

section
/-! Timers and keypad (spec/44_timers_and_keypad.md R180 to R185). A key a register names is said once, as an element of
the array of keys; `LDK`, `SKP` and `SKNP` once each, as the end they come to under its condition. -/

namespace Sys2Proof.Machine

/-! ### Timers (R180 to R182) -/

/-- R30, R223: the sound is on while the sound timer is not zero. -/
theorem isBeeping_iff (s : State) : s.isBeeping = true ↔ s.st ≠ 0#8 := by
  rw [State.isBeeping, decide_eq_true_iff, gt_iff_lt, Nat.pos_iff_ne_zero, ← BitVec.toNat_ne_iff_ne, BitVec.toNat_zero]

/-- Settles O48: each of the three completes with its one byte moved. -/
theorem timerInstructionsMoveBytes : Obligations.TimerInstructionsMoveBytes := by
  intro x s
  refine ⟨⟨_, rfl, counted_retire rfl⟩, ⟨_, rfl, ?_, counted_retire rfl⟩, exec_of_setV rfl⟩
  exact isBeeping_iff _

/-! ### The key wait (R183) -/

section
variable {s : State} {x : RegIdx}

/-- R183, D28: with a release latched `LDK` consumes it and advances. -/
theorem exec_ldKey_of_latched {l : Latch} (h : s.latch = some l) :
    exec (.ldKey x) s = done ({ s with latch := none }.setV x (l.key.setWidth 8)).advance := by
  simp only [exec, execLdKey, h]

/-- R183, D47: with no release latched `LDK` completes where it is. -/
theorem exec_ldKey_of_empty (h : s.latch = none) : exec (.ldKey x) s = done s := by
  simp only [exec, execLdKey, h]

end

/-- Settles O49: the key consumed is written to one register, as `exec_of_setV` says of the state with the latch
emptied. -/
theorem keyWaitConsumesTheRelease : Obligations.KeyWaitConsumesTheRelease := by
  intro x s
  refine ⟨fun l hlatch => ?_, fun hempty => ⟨_, exec_ldKey_of_empty hempty, counted_retire rfl⟩⟩
  obtain ⟨t, hexec, hget, hcounted⟩ := exec_of_setV (exec_ldKey_of_latched (x := x) hlatch)
  refine ⟨t, hexec, ?_, fun k hk => ?_, hcounted⟩
  · rw [hget, if_pos rfl, BitVec.toNat_setWidth_of_le (by decide)]
  · rw [hget, if_neg hk]
    rfl

/-! ### The key skips (R184, R185) -/

/-- R31: the state of the key a byte below 16 names is the element of that number. -/
theorem isDown_setWidth (s : State) {b : Byte} (h : b.toNat < 16) : s.isDown (b.setWidth 4) = s.down[b.toNat] := by
  have hkey : (b.setWidth 4).toNat = b.toNat := by
    rw [BitVec.toNat_setWidth, Nat.mod_eq_of_lt h]
  simp only [State.isDown, hkey]

theorem keyOf_of_lt {b : Byte} (h : b.toNat < 16) : keyOf b = some (b.setWidth 4) := if_pos (Nat.le_of_lt_succ h)

theorem keyOf_of_le {b : Byte} (h : 16 ≤ b.toNat) : keyOf b = none := if_neg (Nat.not_le.2 h)

/-- A skip on a negated condition, as a choice on the condition itself. -/
theorem skipIf_not (s : State) (b : Bool) :
    s.skipIf (!b) = { s with pc := if b then s.pc + 2#16 else s.pc + 4#16 } := by
  cases b <;> rfl

section
variable {s : State} {x : RegIdx}

/-- R184: where V[x] names a key, `SKP` skips when it is down. -/
theorem exec_skp_of_key (h : (s.getV x).toNat < 16) :
    exec (.skp x) s = done (s.skipIf s.down[(s.getV x).toNat]) := by
  simp only [exec, execSkp, keyOf_of_lt h, isDown_setWidth s h]

/-- R185: where V[x] names a key, `SKNP` skips when it is up. -/
theorem exec_sknp_of_key (h : (s.getV x).toNat < 16) :
    exec (.sknp x) s = done (s.skipIf !s.down[(s.getV x).toNat]) := by
  simp only [exec, execSknp, keyOf_of_lt h, isDown_setWidth s h]

/-- R184, D15: where V[x] names no key, `SKP` raises `InvalidKeyIndex`. -/
theorem exec_skp_of_noKey (h : 16 ≤ (s.getV x).toNat) :
    exec (.skp x) s = .next (s.raise (.invalidKeyIndex (s.getV x).toNat s.pc)) := by
  simp only [exec, execSkp, keyOf_of_le h]

/-- R185, D15: where V[x] names no key, `SKNP` raises `InvalidKeyIndex`. -/
theorem exec_sknp_of_noKey (h : 16 ≤ (s.getV x).toNat) :
    exec (.sknp x) s = .next (s.raise (.invalidKeyIndex (s.getV x).toNat s.pc)) := by
  simp only [exec, execSknp, keyOf_of_le h]

end

/-- Settles O50: the two ends of `SKP` and the two of `SKNP`. -/
theorem keySkipsReadTheKey : Obligations.KeySkipsReadTheKey := by
  intro x s
  refine ⟨fun hkey => ⟨?_, ?_⟩, fun hno => ⟨exec_skp_of_noKey hno, exec_sknp_of_noKey hno⟩⟩
  · exact ⟨_, exec_skp_of_key hkey, counted_retire rfl⟩
  · exact ⟨_, exec_sknp_of_key hkey, counted_retire (skipIf_not s _)⟩

end Sys2Proof.Machine
end

section
/-! Display (spec/45_display.md R190 to R209). An instruction that maps the targeted planes (`CLS`, the scrolls) is said
once, by their pixels. A draw of either size is said once too, as `Drawn`: what it leaves of the pixels that its sprite
touches, whatever the sprite's size; the statements about draws are read off it. -/

namespace Sys2Proof.Machine

/-! ### Clearing and scrolling (R191, R200 to R206) -/

/-- R191: the plane that an operation on the targeted planes leaves, by its pixels. -/
theorem pixel_ite (b : Bool) (p q : Plane) (px py : Nat) :
    Plane.pixel (if b then p else q) px py = if b then p.pixel px py else q.pixel px py :=
  apply_ite (fun r : Plane => r.pixel px py) (b = true) p q

/-- R191, R200 to R206: the end of an instruction that maps the targeted planes by `f` and advances. -/
theorem exec_of_onTargets {i : Instr} {s : State} {f : Plane → Plane} (h : exec i s = done (s.onTargets f).advance) :
    ∃ t, exec i s = .next t ∧
      (∀ px py, t.plane0.pixel px py = if s.pmask.getLsbD 0 then (f s.plane0).pixel px py else s.plane0.pixel px py) ∧
      (∀ px py, t.plane1.pixel px py = if s.pmask.getLsbD 1 then (f s.plane1).pixel px py else s.plane1.pixel px py) ∧
      Counted { s with plane0 := t.plane0, plane1 := t.plane1, pc := s.pc + 2#16 } t :=
  ⟨_, h, pixel_ite _ _ _, pixel_ite _ _ _, counted_retire rfl⟩

/-- Settles O55: `CLS` maps the targeted planes to the clear one. -/
theorem clearScreenClearsTargetedPlanes : Obligations.ClearScreenClearsTargetedPlanes := by
  intro s
  have clears (p : Plane) (b : Bool) (px py : Nat) :
      (if b then Plane.clear.pixel px py else p.pixel px py) = (p.pixel px py && !b) := by
    cases b <;> simp
  obtain ⟨t, hexec, h0, h1, hcounted⟩ := exec_of_onTargets (i := .cls) (s := s) rfl
  exact ⟨t, hexec, fun px py => (h0 px py).trans (clears ..), fun px py => (h1 px py).trans (clears ..), hcounted⟩

/-- R201: the amount of a scroll, as the statements say it. -/
theorem scrollAmount_eq (s : State) (n : Nat) : scrollAmount s n = scrollBy s n := by
  simp only [scrollAmount, scrollBy, Bool.and_eq_true, decide_eq_true_eq, Bool.not_eq_true']

/-- R191, R203 to R206: a scroll is the map of the targeted planes whose pixels are `g`. -/
theorem exec_of_scroll {i : Instr} {s : State} {f : Plane → Plane} {g : Plane → Nat → Nat → Bool}
    (h : exec i s = done (s.onTargets f).advance)
    (hg : ∀ p px py, px < 128 → py < 64 → (f p).pixel px py = g p px py) :
    ∃ t, exec i s = .next t ∧
      (∀ px py, px < 128 → py < 64 →
        t.plane0.pixel px py = (if s.pmask.getLsbD 0 then g s.plane0 px py else s.plane0.pixel px py) ∧
        t.plane1.pixel px py = (if s.pmask.getLsbD 1 then g s.plane1 px py else s.plane1.pixel px py)) ∧
      Counted { s with plane0 := t.plane0, plane1 := t.plane1, pc := s.pc + 2#16 } t := by
  obtain ⟨t, hexec, h0, h1, hcounted⟩ := exec_of_onTargets h
  refine ⟨t, hexec, fun px py hx hy => ?_, hcounted⟩
  rw [h0, h1, hg s.plane0 px py hx hy, hg s.plane1 px py hx hy]
  exact ⟨rfl, rfl⟩

/-- R33: right of the plane no pixel is set, as none is where a scroll fills. -/
theorem pixel_eq_and_px (p : Plane) (px py : Nat) : p.pixel px py = (decide (px < 128) && p.pixel px py) := by
  by_cases h : px < 128
  · rw [decide_eq_true h, Bool.true_and]
  · rw [pixel_eq_false_of_px (Nat.not_lt.1 h), Bool.and_false]

/-- R33: below the plane no pixel is set, as none is where a scroll fills. -/
theorem pixel_eq_and_py (p : Plane) (px py : Nat) : p.pixel px py = (decide (py < 64) && p.pixel px py) := by
  by_cases h : py < 64
  · rw [decide_eq_true h, Bool.true_and]
  · rw [pixel_eq_false_of_py (Nat.not_lt.1 h), Bool.and_false]

/-- Settles O56: each scroll's pixels are those of its own map of a plane, on the plane and past its edge. -/
theorem scrollsMoveEveryPixel : Obligations.ScrollsMoveEveryPixel := by
  intro n s a b c hc
  have ha : scrollAmount s n.toNat = a := scrollAmount_eq s n.toNat
  have hb : scrollAmount s 4 = b := scrollAmount_eq s 4
  simp only [List.mem_cons, List.not_mem_nil, or_false] at hc
  rcases hc with rfl | rfl | rfl | rfl
  · refine exec_of_scroll rfl fun p px py _ hy => ?_
    rw [pixel_scrollDown, ha, decide_eq_true hy, Bool.true_and]
  · refine exec_of_scroll rfl fun p px py _ hy => ?_
    rw [pixel_scrollUp, ha, decide_eq_true hy, Bool.true_and]
    exact pixel_eq_and_py p px (py + a)
  · refine exec_of_scroll rfl fun p px py hx hy => ?_
    rw [pixel_scrollRight, hb, decide_eq_true hy, decide_eq_true hx, Bool.true_and, Bool.true_and]
  · refine exec_of_scroll rfl fun p px py _ hy => ?_
    rw [pixel_scrollLeft, hb, decide_eq_true hy, Bool.true_and]
    exact pixel_eq_and_px p (px + b) py

/-! ### Mode and plane selection (R207 to R209) -/

section
variable {n : BitVec 4} (s : State)

/-- R209: `PLANE n` with n at most 3 sets the mask. -/
theorem exec_plane_of_le (h : n.toNat ≤ 3) :
    exec (.plane n) s = done { s with pmask := n.setWidth 2 }.advance :=
  if_neg (Nat.not_lt.2 h)

/-- R209, D16: `PLANE n` with n above 3 raises `InvalidPlaneMask`. -/
theorem exec_plane_of_gt (h : 3 < n.toNat) : exec (.plane n) s = .next (s.raise (.invalidPlaneMask n s.pc)) :=
  if_pos h

end

/-- Settles O57: `LOW` and `HIGH` have one end, `PLANE` two. -/
theorem modeAndPlaneSelection : Obligations.ModeAndPlaneSelection := by
  intro n s
  refine ⟨⟨_, rfl, counted_retire rfl⟩, ⟨_, rfl, counted_retire rfl⟩, fun hle => ?_, exec_plane_of_gt s⟩
  refine ⟨_, exec_plane_of_le s hle, ?_, counted_retire rfl⟩
  exact (BitVec.toNat_setWidth ..).trans (Nat.mod_eq_of_lt (Nat.lt_succ_of_le hle))

/-! ### Toggling the pixels of one plane (R192, R193, R195) -/

section
variable {p : Plane} {ps : List (Nat × Nat)} (hn : ps.Nodup) (hb : ∀ q ∈ ps, q.1 < 128 ∧ q.2 < 64) (b : Bool)
include hn hb

/-- R192, R195: distinct pixels are toggled on a targeted plane (`b`), and none on another. -/
theorem pixel_xorPixels_target (px py : Nat) :
    Plane.pixel (if b then (xorPixels p ps).1 else p) px py = true ↔
      Xor (p.pixel px py = true) (b = true ∧ (px, py) ∈ ps) := by
  rw [pixel_ite, pixel_xorPixels hn hb]
  cases b <;> cases p.pixel px py <;> simp

/-- R193, R195: a collision is a set pixel among those toggled on a targeted plane. -/
theorem hit_xorPixels_target :
    (b && (xorPixels p ps).2) = true ↔
      ∃ px py, px < 128 ∧ py < 64 ∧ (b = true ∧ (px, py) ∈ ps) ∧ p.pixel px py = true := by
  rw [hit_xorPixels hn hb, Bool.and_eq_true, List.any_eq_true]
  constructor
  · rintro ⟨htarget, ⟨px, py⟩, hmem, hset⟩
    obtain ⟨hx, hy⟩ := hb _ hmem
    exact ⟨px, py, hx, hy, ⟨htarget, hmem⟩, hset⟩
  · rintro ⟨px, py, -, -, ⟨htarget, hmem⟩, hset⟩
    exact ⟨htarget, (px, py), hmem, hset⟩

end

/-! ### The bytes a draw reads (R68, R198, R199) -/

/-- The `n` bytes at `a`: one plane's sprite. -/
def spriteAt (m : Memory) (a n : Nat) : List Byte := (List.range n).map fun j => memGet m (a + j)

/-- R68: where plane 1's sprite begins: after plane 0's, when both planes are targeted. -/
def secondSprite (s : State) (n : Nat) : Nat := if s.pmask = 3#2 then s.i.toNat + n else s.i.toNat

@[simp] theorem length_spriteAt (m : Memory) (a n : Nat) : (spriteAt m a n).length = n := by simp [spriteAt]

theorem getD_spriteAt (m : Memory) (a : Nat) {n j : Nat} (h : j < n) :
    (spriteAt m a n).getD j 0#8 = memGet m (a + j) := by
  simp [spriteAt, List.getD_eq_getElem?_getD, h]

/-- The bytes of two sprites are those of the first followed by those of the second. -/
theorem spriteAt_two_mul (m : Memory) (a n : Nat) : spriteAt m a (2 * n) = spriteAt m a n ++ spriteAt m (a + n) n := by
  simp only [spriteAt, Nat.two_mul, List.range_add, List.map_append, List.map_map, Nat.add_assoc, Function.comp_def]

theorem spriteAt_take (m : Memory) (a n : Nat) : (spriteAt m a (2 * n)).take n = spriteAt m a n := by
  rw [spriteAt_two_mul, List.take_left' (length_spriteAt m a n)]

theorem spriteAt_drop (m : Memory) (a n : Nat) : (spriteAt m a (2 * n)).drop n = spriteAt m (a + n) n := by
  rw [spriteAt_two_mul, List.drop_left' (length_spriteAt m a n)]

/-- R36: the four plane masks. -/
theorem pmask_cases (m : BitVec 2) : m = 0#2 ∨ m = 1#2 ∨ m = 2#2 ∨ m = 3#2 := by
  revert m
  decide

/-- R68, R198, R199: the bytes a draw reads, as the statements say them. -/
theorem drawBytes_eq (m : BitVec 2) (n : Nat) :
    drawBytes m n = if m = 0#2 then 0 else if m = 3#2 then 2 * n else n := by
  rcases pmask_cases m with rfl | rfl | rfl | rfl <;> rfl

/-- R191, R195, R197: what a draw does with the bytes it reads: a targeted plane has its own sprite's pixels toggled, and
the collisions are ORed. -/
theorem drawPlanes_spriteAt (s : State) (pixelsOf : List Byte → List (Nat × Nat)) (n : Nat) :
    let d := drawPlanes s pixelsOf (spriteAt s.mem s.i.toNat (drawBytes s.pmask n))
    let d0 := xorPixels s.plane0 (pixelsOf (spriteAt s.mem s.i.toNat n))
    let d1 := xorPixels s.plane1 (pixelsOf (spriteAt s.mem (secondSprite s n) n))
    d.1.plane0 = (if s.pmask.getLsbD 0 then d0.1 else s.plane0) ∧
    d.1.plane1 = (if s.pmask.getLsbD 1 then d1.1 else s.plane1) ∧
    d.2 = ((s.pmask.getLsbD 0 && d0.2) || (s.pmask.getLsbD 1 && d1.2)) := by
  rcases pmask_cases s.pmask with h | h | h | h
  case inr.inr.inr => simp [drawPlanes, drawBytes, secondSprite, h, spriteAt_take, spriteAt_drop]
  all_goals simp [drawPlanes, drawBytes, secondSprite, h]

/-! ### What a draw does (R190 to R199) -/

/-- R192, R196: `pixelsOf` gives, of the `n` bytes of a sprite at any address, distinct pixels of the plane, and they are
those that `touched` says of the address. -/
structure TouchedBy (m : Memory) (n : Nat) (pixelsOf : List Byte → List (Nat × Nat))
    (touched : Nat → Nat → Nat → Prop) : Prop where
  nodup (a : Nat) : (pixelsOf (spriteAt m a n)).Nodup
  bound (a : Nat) : ∀ q ∈ pixelsOf (spriteAt m a n), q.1 < 128 ∧ q.2 < 64
  mem_iff (a px py : Nat) : (px, py) ∈ pixelsOf (spriteAt m a n) ↔ touched a px py

section
variable (s : State) (n : Nat) (touched : Nat → Nat → Nat → Prop)

/-- R191, R195: the pixels of plane 0 that a draw toggles, the sprite at `a` touching the pixels of `touched a`. -/
def Toggled0 (px py : Nat) : Prop := s.pmask.getLsbD 0 = true ∧ touched s.i.toNat px py

/-- R191, R195: the pixels of plane 1 that a draw toggles. -/
def Toggled1 (px py : Nat) : Prop := s.pmask.getLsbD 1 = true ∧ touched (secondSprite s n) px py

/-- R193, R195: a draw toggles a pixel that was set. -/
def Collides : Prop :=
  ∃ px py, px < 128 ∧ py < 64 ∧
    ((Toggled0 s touched px py ∧ s.plane0.pixel px py = true) ∨
      (Toggled1 s n touched px py ∧ s.plane1.pixel px py = true))

/-- R191 to R193, R195, R198, R199: `t` is what an executed draw makes of `s`, `n` being the bytes of a plane's sprite. -/
structure Drawn (t : State) : Prop where
  planes : ∀ px py, px < 128 → py < 64 →
    (t.plane0.pixel px py = true ↔ Xor (s.plane0.pixel px py = true) (Toggled0 s touched px py)) ∧
    (t.plane1.pixel px py = true ↔ Xor (s.plane1.pixel px py = true) (Toggled1 s n touched px py))
  hit : Collides s n touched → t.getV 15#4 = 1#8
  noHit : ¬Collides s n touched → t.getV 15#4 = 0#8
  regs : ∀ k, k ≠ 15#4 → t.getV k = s.getV k
  counted : Counted { s with
    v := t.v, plane0 := t.plane0, plane1 := t.plane1, pc := s.pc + 2#16, drawsInBatch := s.drawsInBatch + 1 } t

end

/-- R108: the condition of the wait, as the statements say it. -/
theorem drawMustWait_eq_false {s : State} (h : ¬(s.quirks.displayWait = true ∧ 1 ≤ s.drawsInBatch)) :
    s.drawMustWait = false := by
  simpa [State.drawMustWait] using h

section
variable {i : Instr} {n : Nat} {pixelsOf : List Byte → List (Nat × Nat)} {touched : Nat → Nat → Nat → Prop} {s : State}
  (hwait : ¬(s.quirks.displayWait = true ∧ 1 ≤ s.drawsInBatch))
include hwait

/-- R198, R199, D14: a draw whose bytes leave memory raises F2 before any pixel changes. -/
theorem drawInstr_of_overruns (h0 : drawBytes s.pmask n ≠ 0) (h : 4096 < s.i.toNat + drawBytes s.pmask n) :
    drawInstr i n pixelsOf s =
      .next (s.raise (.memReadOutOfRange s.i (drawBytes s.pmask n) s.pc (some (firstWord i)))) := by
  rw [drawInstr, drawMustWait_eq_false hwait]
  exact withRead_of_overruns i s _ h0 h

/-- R198, R199: a draw whose bytes are in memory draws the planes' sprites, sets VF and is counted. -/
theorem drawInstr_of_fits (h : drawBytes s.pmask n = 0 ∨ s.i.toNat + drawBytes s.pmask n ≤ 4096) :
    drawInstr i n pixelsOf s =
      let d := drawPlanes s pixelsOf (spriteAt s.mem s.i.toNat (drawBytes s.pmask n))
      done { (d.1.setCarry d.2).advance with drawsInBatch := s.drawsInBatch + 1 } := by
  rw [drawInstr, drawMustWait_eq_false hwait]
  exact withRead_of_fits i s _ h

/-- R191 to R199: such a draw is `Drawn`. -/
theorem drawInstr_drawn (ht : TouchedBy s.mem n pixelsOf touched)
    (h : drawBytes s.pmask n = 0 ∨ s.i.toNat + drawBytes s.pmask n ≤ 4096) :
    ∃ t, drawInstr i n pixelsOf s = .next t ∧ Drawn s n touched t := by
  obtain ⟨hp0, hp1, hhit⟩ := drawPlanes_spriteAt s pixelsOf n
  have hframe := drawPlanes_frame s pixelsOf (spriteAt s.mem s.i.toNat (drawBytes s.pmask n))
  have hexec := drawInstr_of_fits (i := i) (pixelsOf := pixelsOf) hwait h
  set d := drawPlanes s pixelsOf (spriteAt s.mem s.i.toNat (drawBytes s.pmask n))
  have hcollides : d.2 = true ↔ Collides s n touched := by
    rw [hhit, Bool.or_eq_true, hit_xorPixels_target (ht.nodup _) (ht.bound _),
      hit_xorPixels_target (ht.nodup _) (ht.bound _)]
    simp only [ht.mem_iff, Collides, Toggled0, Toggled1, ← exists_or, ← and_or_left]
  have hvf (k : RegIdx) : (d.1.setCarry d.2).getV k = if k = 15#4 then (if d.2 then 1#8 else 0#8) else s.getV k := by
    rw [getV_setCarry, hframe]
    rfl
  refine ⟨_, hexec, ⟨fun px py _ _ => ⟨?_, ?_⟩, fun hit => ?_, fun noHit => ?_, fun k hk => ?_, counted_retire ?_⟩⟩
  · rw [Toggled0, ← ht.mem_iff, ← pixel_xorPixels_target (ht.nodup _) (ht.bound _), ← hp0]
    rfl
  · rw [Toggled1, ← ht.mem_iff, ← pixel_xorPixels_target (ht.nodup _) (ht.bound _), ← hp1]
    rfl
  · exact (hvf 15#4).trans (by rw [if_pos rfl, if_pos (hcollides.2 hit)])
  · exact (hvf 15#4).trans (by rw [if_pos rfl, if_neg (mt hcollides.1 noHit)])
  · exact (hvf k).trans (if_neg hk)
  · rw [hframe]
    rfl

end

/-! ### The two sprite sizes (R192, R196) -/

section
variable (s : State) (x y : RegIdx) (n : BitVec 4)

/-- R190 to R194: the pixels that the plain sprite at `a` touches. -/
def plainTouched (a : Nat) : Nat → Nat → Prop :=
  Touches s.mode.factor 8 n.toNat s.quirks.drawClipping (s.getV x).toNat (s.getV y).toNat (plainBit s.mem a)

/-- R190, R194, R196: the pixels that the 16 x 16 sprite at `a` touches. -/
def superTouched (a : Nat) : Nat → Nat → Prop :=
  Touches 1 16 16 s.quirks.drawClipping (s.getV x).toNat (s.getV y).toNat (superBit s.mem a)

/-- R192: a plain sprite has at most 15 rows of 8 bits, which are its bytes. -/
theorem plainPixels_touchedBy : TouchedBy s.mem n.toNat (plainPixels s x y) (plainTouched s x y n) := by
  have hn := n.isLt
  have hscreen : 0 < s.mode.factor ∧ 8 ≤ 128 / s.mode.factor ∧ 15 ≤ 64 / s.mode.factor := by
    cases s.mode <;> decide
  obtain ⟨hpos, hwide, htall⟩ := hscreen
  refine ⟨fun a => nodup_spritePixels hpos _ _ _ _ hwide (by rw [length_spriteAt]; omega),
    fun a => spritePixels_bound (factor_eq s.mode) _ _ _ _, fun a px py => ?_⟩
  rw [plainPixels, mem_spritePixels hpos, length_spriteAt, plainTouched]
  refine touches_congr (fun r col hr hcol => ?_) px py
  rw [getD_spriteAt s.mem a hr, plainBit, BitVec.getMsbD, decide_eq_true hcol, Bool.true_and]

/-- R196: a super sprite has 16 rows of 16 bits, each two of its 32 bytes. -/
theorem superPixels_touchedBy : TouchedBy s.mem 32 (superPixels s x y) (superTouched s x y) := by
  have hrows (a : Nat) : (superRows (spriteAt s.mem a 32)).length = 16 := by rw [length_superRows, length_spriteAt]
  refine ⟨fun a => nodup_spritePixels Nat.one_pos _ _ _ _ (by decide) (by rw [hrows]; decide),
    fun a => spritePixels_bound (.inl rfl) _ _ _ _, fun a px py => ?_⟩
  rw [superPixels, mem_spritePixels Nat.one_pos, hrows, superTouched]
  refine touches_congr (fun r col hr hcol => ?_) px py
  rw [getD_superRows _ _ (by rw [length_spriteAt]; omega), getD_spriteAt s.mem a (by omega),
    getD_spriteAt s.mem a (by omega), superBit, BitVec.getMsbD_append]
  by_cases h : col < 8
  · rw [if_neg (by omega), if_pos h, BitVec.getMsbD, decide_eq_true h, Bool.true_and]
  · rw [if_pos (by omega), if_neg h, BitVec.getMsbD, decide_eq_true (by omega), Bool.true_and]
    congr 1
    omega

end

section
variable {s : State} (hwait : ¬(s.quirks.displayWait = true ∧ 1 ≤ s.drawsInBatch)) (x y : RegIdx) (n : BitVec 4)
include hwait

/-- R198: what `DRW Vx, Vy, n` does where it need not wait and its bytes are in memory. -/
theorem exec_drw_drawn (h : drawBytes s.pmask n.toNat = 0 ∨ s.i.toNat + drawBytes s.pmask n.toNat ≤ 4096) :
    ∃ t, exec (.drw x y n) s = .next t ∧ Drawn s n.toNat (plainTouched s x y n) t :=
  drawInstr_drawn hwait (plainPixels_touchedBy s x y n) h

/-- R199: the same of `DRW Vx, Vy, 0`. -/
theorem exec_drw16_drawn (h : drawBytes s.pmask 32 = 0 ∨ s.i.toNat + drawBytes s.pmask 32 ≤ 4096) :
    ∃ t, exec (.drw16 x y) s = .next t ∧ Drawn s 32 (superTouched s x y) t :=
  drawInstr_drawn hwait (superPixels_touchedBy s x y) h

end

/-- Settles O51: the draw is `Drawn` or raises F2. -/
theorem plainDrawTogglesTouchedPixels : Obligations.PlainDrawTogglesTouchedPixels := by
  intro x y n s _ hwait bytes touched touched0 touched1
  have hbytes : drawBytes s.pmask n.toNat = bytes := drawBytes_eq s.pmask n.toNat
  rw [← hbytes]
  refine ⟨fun hfits => ?_, drawInstr_of_overruns hwait⟩
  obtain ⟨t, hexec, hdrawn⟩ := exec_drw_drawn hwait x y n hfits
  exact ⟨t, hexec, hdrawn.planes, hdrawn.hit, hdrawn.noHit, hdrawn.regs, hdrawn.counted⟩

/-- Settles O52: the draw is `Drawn` or raises F2. -/
theorem superDrawTogglesTouchedPixels : Obligations.SuperDrawTogglesTouchedPixels := by
  intro x y s hwait bytes touched touched0 touched1
  have hbytes : drawBytes s.pmask 32 = bytes := drawBytes_eq s.pmask 32
  rw [← hbytes]
  refine ⟨fun hfits => ?_, drawInstr_of_overruns hwait⟩
  obtain ⟨t, hexec, hdrawn⟩ := exec_drw16_drawn hwait x y hfits
  exact ⟨t, hexec, hdrawn.planes, hdrawn.hit, hdrawn.noHit, hdrawn.regs, hdrawn.counted⟩

/-! ### A sprite drawn twice (R193, S7) -/

/-- Toggling the same pixels of a plane twice restores it. -/
theorem plane_eq_of_toggledTwice {p q r : Plane} {toggled : Nat → Nat → Prop}
    (h1 : ∀ px py, px < 128 → py < 64 → (q.pixel px py = true ↔ Xor (p.pixel px py = true) (toggled px py)))
    (h2 : ∀ px py, px < 128 → py < 64 → (r.pixel px py = true ↔ Xor (q.pixel px py = true) (toggled px py))) :
    r = p := by
  refine plane_ext fun px py hx hy => Bool.eq_iff_iff.2 ?_
  rw [h2 px py hx hy, h1 px py hx hy, xor_def, xor_def]
  tauto

/-- Where no toggled pixel of a plane was set and the plane has changed, a toggled pixel of it is set now. -/
theorem exists_toggled_of_ne {p q : Plane} {toggled : Nat → Nat → Prop}
    (h : ∀ px py, px < 128 → py < 64 → (q.pixel px py = true ↔ Xor (p.pixel px py = true) (toggled px py)))
    (hempty : ∀ px py, toggled px py → p.pixel px py = false) (hne : q ≠ p) :
    ∃ px py, px < 128 ∧ py < 64 ∧ toggled px py ∧ q.pixel px py = true := by
  by_contra hnone
  refine hne (plane_ext fun px py hx hy => Bool.eq_iff_iff.2 ?_)
  have huntouched : ¬toggled px py := fun ht =>
    hnone ⟨px, py, hx, hy, ht, (h px py hx hy).2 (.inr ⟨ht, by rw [hempty px py ht]; exact Bool.false_ne_true⟩)⟩
  rw [h px py hx hy, xor_def]
  tauto

/-- R191: two states with the same I and mask have the same pixels toggled on both planes. -/
theorem toggled_congr {s u : State} {n : Nat} {touched : Nat → Nat → Nat → Prop} (hi : u.i = s.i)
    (hmask : u.pmask = s.pmask) :
    Toggled0 u touched = Toggled0 s touched ∧ Toggled1 u n touched = Toggled1 s n touched := by
  constructor
  · funext px py
    rw [Toggled0, Toggled0, hi, hmask]
  · funext px py
    rw [Toggled1, Toggled1, secondSprite, secondSprite, hi, hmask]

section
variable {s t u w : State} {n : Nat} {touched : Nat → Nat → Nat → Prop} (hst : Drawn s n touched t)
  (huw : Drawn u n touched w) (h0 : u.plane0 = t.plane0) (h1 : u.plane1 = t.plane1) (hi : u.i = s.i)
  (hmask : u.pmask = s.pmask)
include hst huw h0 h1 hi hmask

/-- R192: the second of two draws that toggle the same pixels restores both planes. -/
theorem drawn_twice_planes : w.plane0 = s.plane0 ∧ w.plane1 = s.plane1 := by
  obtain ⟨htog0, htog1⟩ := toggled_congr (n := n) (touched := touched) hi hmask
  have hsecond := huw.planes
  rw [h0, h1, htog0, htog1] at hsecond
  exact ⟨plane_eq_of_toggledTwice (fun px py hx hy => (hst.planes px py hx hy).1) fun px py hx hy =>
      (hsecond px py hx hy).1,
    plane_eq_of_toggledTwice (fun px py hx hy => (hst.planes px py hx hy).2) fun px py hx hy =>
      (hsecond px py hx hy).2⟩

/-- R193: on empty targeted planes the first of two such draws reports no collision, and the second does where the first
has changed a pixel. -/
theorem drawn_twice_vf (hclear0 : s.pmask.getLsbD 0 = true → s.plane0 = Plane.clear)
    (hclear1 : s.pmask.getLsbD 1 = true → s.plane1 = Plane.clear)
    (hne : t.plane0 ≠ s.plane0 ∨ t.plane1 ≠ s.plane1) : t.getV 15#4 = 0#8 ∧ w.getV 15#4 = 1#8 := by
  obtain ⟨htog0, htog1⟩ := toggled_congr (n := n) (touched := touched) hi hmask
  have hempty0 (px py : Nat) (h : Toggled0 s touched px py) : s.plane0.pixel px py = false := by
    rw [hclear0 h.1, pixel_clear]
  have hempty1 (px py : Nat) (h : Toggled1 s n touched px py) : s.plane1.pixel px py = false := by
    rw [hclear1 h.1, pixel_clear]
  constructor
  · refine hst.noHit ?_
    rintro ⟨px, py, -, -, ⟨h, hset⟩ | ⟨h, hset⟩⟩
    · exact Bool.false_ne_true ((hempty0 px py h).symm.trans hset)
    · exact Bool.false_ne_true ((hempty1 px py h).symm.trans hset)
  · refine huw.hit ?_
    rw [Collides, h0, h1, htog0, htog1]
    rcases hne with hne | hne
    · obtain ⟨px, py, hx, hy, h⟩ :=
        exists_toggled_of_ne (fun px py hx hy => (hst.planes px py hx hy).1) hempty0 hne
      exact ⟨px, py, hx, hy, .inl h⟩
    · obtain ⟨px, py, hx, hy, h⟩ :=
        exists_toggled_of_ne (fun px py hx hy => (hst.planes px py hx hy).2) hempty1 hne
      exact ⟨px, py, hx, hy, .inr h⟩

end

/-- R190, R192: `u` has the memory, the mode, the clipping and the place that decide what a sprite of `s` touches. -/
structure SamePlace (x y : RegIdx) (s u : State) : Prop where
  mem : u.mem = s.mem
  mode : u.mode = s.mode
  clip : u.quirks.drawClipping = s.quirks.drawClipping
  vx : u.getV x = s.getV x
  vy : u.getV y = s.getV y

section
variable {x y : RegIdx} {s u : State} (h : SamePlace x y s u)
include h

theorem plainTouched_congr (n : BitVec 4) : plainTouched u x y n = plainTouched s x y n := by
  funext a
  simp only [plainTouched, h.mem, h.mode, h.clip, h.vx, h.vy]

theorem superTouched_congr : superTouched u x y = superTouched s x y := by
  funext a
  simp only [superTouched, h.mem, h.clip, h.vx, h.vy]

end

/-- R198, R199: `i` is a draw instruction at (V[x], V[y]) whose sprite has `n` bytes a plane: it is `Drawn` with touched
pixels that the sprite and its place decide. -/
def Draws (x y : RegIdx) (i : Instr) (n : Nat) : Prop :=
  ∃ touchedOf : State → Nat → Nat → Nat → Prop,
    (∀ s : State, ¬(s.quirks.displayWait = true ∧ 1 ≤ s.drawsInBatch) →
      (drawBytes s.pmask n = 0 ∨ s.i.toNat + drawBytes s.pmask n ≤ 4096) →
      ∃ t, exec i s = .next t ∧ Drawn s n (touchedOf s) t) ∧
    ∀ s u, SamePlace x y s u → touchedOf u = touchedOf s

theorem drw_draws (x y : RegIdx) (n : BitVec 4) : Draws x y (.drw x y n) n.toNat :=
  ⟨fun s => plainTouched s x y n, fun _ hwait => exec_drw_drawn hwait x y n, fun _ _ h => plainTouched_congr h n⟩

theorem drw16_draws (x y : RegIdx) : Draws x y (.drw16 x y) 32 :=
  ⟨fun s => superTouched s x y, fun _ hwait => exec_drw16_drawn hwait x y, fun _ _ h => superTouched_congr h⟩

/-- Settles O54: both draws are `Drawn` with the same touched pixels, the second state having all that decides them. -/
theorem sameSpriteTwiceRestoresThePlanes : Obligations.SameSpriteTwiceRestoresThePlanes := by
  intro x y n s hwait c hc bytes hfits
  have hdraws : Draws x y c.1 c.2 := by
    simp only [List.mem_cons, List.not_mem_nil, or_false] at hc
    rcases hc with rfl | rfl
    · exact drw_draws x y n
    · exact drw16_draws x y
  obtain ⟨touchedOf, hdrawn, hcongr⟩ := hdraws
  simp only [bytes, ← drawBytes_eq] at hfits
  obtain ⟨t, hexec, hst⟩ := hdrawn s hwait hfits
  refine ⟨t, hexec, hst.regs, fun u hwait' h0 h1 hmem hi hmask hmode hclip hx hy => ?_⟩
  obtain ⟨w, hexec', huw⟩ := hdrawn u hwait' (by rwa [hi, hmask])
  rw [hcongr s u ⟨hmem, hmode, hclip, hx, hy⟩] at huw
  obtain ⟨hw0, hw1⟩ := drawn_twice_planes hst huw h0 h1 hi hmask
  exact ⟨w, hexec', hw0, hw1, drawn_twice_vf hst huw h0 h1 hi hmask⟩

end Sys2Proof.Machine
end

section
/-! Audio (spec/46_audio.md R220 to R222). `AUDIO` and `PITCH` share one end, which notifies of the
pattern and the pitch they leave; the frequency doubles as its real exponent grows by one. -/

namespace Sys2Proof.Machine

/-! ### The pattern and the pitch (R220, R221) -/

/-- R220: the bytes of the pattern are those of the list. -/
theorem getElem_patternOf (bs : List Byte) {j : Nat} (h : j < 16) : (patternOf bs)[j] = bs.getD j 0#8 :=
  Vector.getElem_ofFn h

/-- R220: with its 16 bytes in memory `AUDIO` completes with the pattern they make, notified. -/
theorem exec_audio_of_fits {s : State} (h : s.i.toNat + 16 ≤ Config.memSize) :
    exec .audio s = done ({ s with
      pattern := patternOf ((List.range 16).map fun j => memGet s.mem (s.i.toNat + j)) }).emitAudio.advance :=
  withRead_of_fits .audio s _ (.inr h)

/-- R220 to R222: the end of an instruction that leaves the pattern and the pitch as `u` has them, notifies of them and
advances. -/
theorem exec_of_emitAudio {i : Instr} {s u : State} (h : exec i s = done u.emitAudio.advance) :
    ∃ t, exec i s = .next t ∧ t.pattern = u.pattern ∧ Counted { u with
      pc := u.pc + 2#16
      events := u.events ++ [.audioUpdated ⟨(u.pitch.toNat : Int) - 64⟩ u.pattern] } t :=
  ⟨_, h, rfl, counted_retire rfl⟩

/-- Settles O58: the notification is of the state with the new pitch. -/
theorem pitchIsSetAndNotified : Obligations.PitchIsSetAndNotified := by
  intro x s
  obtain ⟨t, hexec, -, hcounted⟩ := exec_of_emitAudio (i := .pitch x) (s := s) rfl
  exact ⟨t, hexec, hcounted⟩

/-- Settles O59: the 16 bytes read are the new pattern, and the notification is of the state with it. -/
theorem audioLoadsThePattern : Obligations.AudioLoadsThePattern := by
  intro s
  refine ⟨fun hfits => ?_, withRead_of_overruns .audio s _ (by decide)⟩
  obtain ⟨t, hexec, hpattern, hcounted⟩ := exec_of_emitAudio (exec_audio_of_fits hfits)
  refine ⟨t, hexec, fun j hj => ?_, by rwa [hpattern]⟩
  simp [hpattern, getElem_patternOf _ hj, hj]

/-! ### The frequency (R222) -/

/-- R222: the exponent of a pitch, in 48ths, as a real number. -/
theorem frequency_steps_cast (p : Byte) : ((frequency p).steps : ℝ) = (p.toNat : ℝ) - 64 := by
  simp [frequency]

/-- R222: 48 steps up are one more in the exponent. -/
theorem two_rpow_add_48_div_48 (a : ℝ) : (2 : ℝ) ^ ((a + 48) / 48) = 2 * (2 : ℝ) ^ (a / 48) := by
  rw [add_div, div_self (by norm_num), Real.rpow_add_one (by norm_num), mul_comm]

/-- Settles O60: the exponent is 0 at pitch 64, and 48 steps up double the power. -/
theorem frequencyFollowsThePitch : Obligations.FrequencyFollowsThePitch := by
  unfold Obligations.FrequencyFollowsThePitch
  intro hertz
  have hertz_eq (p : Byte) : hertz (frequency p) = 4000 * (2 : ℝ) ^ (((p.toNat : ℝ) - 64) / 48) :=
    congrArg (fun e : ℝ => 4000 * (2 : ℝ) ^ (e / 48)) (frequency_steps_cast p)
  refine ⟨hertz_eq, ?_, fun p q hq => ?_⟩
  · rw [hertz_eq]
    norm_num
  · have hsteps : (q.toNat : ℝ) - 64 = (p.toNat : ℝ) - 64 + 48 := by
      rw [hq, Nat.cast_add]
      ring
    rw [hertz_eq, hertz_eq, hsteps, two_rpow_add_48_div_48]
    ring

end Sys2Proof.Machine
end

section
/-! Fatal errors and the host's actions (spec/60_exceptions.md R241 to R245, R252 to R254, R261;
spec/70_reset_and_hazards.md R270, R278): the engine after a fatal error, the errors each instruction raises, and what
the timer, keypad and reset actions leave. -/

namespace Sys2Proof.Machine

/-! ### Fatal errors (R243 to R245) -/

section
variable {s t : State}

/-- R245: an open batch with a fatal error set, which no run reaches, has no step. -/
theorem step_of_openBatch_of_fatal {e : FatalError} (hb : 0 < s.batchLeft) (hf : s.fatal = some e) :
    step s = .fault (.sessionOver e) := by
  simp only [step, engineStep, if_neg (Nat.pos_iff_ne_zero.1 hb), hf]

/-- R241, R243: which instructions raise a fatal error, and the error with the info it records. -/
inductive Raises (s : State) : Instr → FatalError → Prop where
  | call (nnn : BitVec 12) : Raises s (.call nnn) (.stackFull s.pc (firstWord (.call nnn)))
  | ret : Raises s .ret (.stackEmpty s.pc (firstWord .ret))
  | plane (n : BitVec 4) : Raises s (.plane n) (.invalidPlaneMask n s.pc)
  | skp (x : RegIdx) : Raises s (.skp x) (.invalidKeyIndex (s.getV x).toNat s.pc)
  | sknp (x : RegIdx) : Raises s (.sknp x) (.invalidKeyIndex (s.getV x).toNat s.pc)
  | drw (x y : RegIdx) (n : BitVec 4) :
    Raises s (.drw x y n) (.memReadOutOfRange s.i (drawBytes s.pmask n.toNat) s.pc (some (firstWord (.drw x y n))))
  | drw16 (x y : RegIdx) :
    Raises s (.drw16 x y) (.memReadOutOfRange s.i (drawBytes s.pmask 32) s.pc (some (firstWord (.drw16 x y))))
  | ldVMem (x : RegIdx) :
    Raises s (.ldVMem x) (.memReadOutOfRange s.i (x.toNat + 1) s.pc (some (firstWord (.ldVMem x))))
  | load (x y : RegIdx) :
    Raises s (.load x y) (.memReadOutOfRange s.i (regRange x y).length s.pc (some (firstWord (.load x y))))
  | audio : Raises s .audio (.memReadOutOfRange s.i 16 s.pc (some (firstWord .audio)))
  | bcd (x : RegIdx) :
    Raises s (.bcd x) (.memoryOverflow s.i (bcdDigits (s.getV x)).length s.pc (some (firstWord (.bcd x))))
  | ldMemV (x : RegIdx) :
    Raises s (.ldMemV x) (.memoryOverflow s.i (s.getRegs (regsUpTo x)).length s.pc (some (firstWord (.ldMemV x))))
  | save (x y : RegIdx) :
    Raises s (.save x y) (.memoryOverflow s.i (s.getRegs (regRange x y)).length s.pc (some (firstWord (.save x y))))

/-- R63: a checked read leaves `fatal`, as its completion does, or raises F2. -/
theorem withRead_fatal_or_raise {i : Instr} {addr : Addr} {n : Nat} {k : List Byte → State}
    (h : withRead i addr n s k = .next t) (hk : ∀ bs, (k bs).fatal = s.fatal) :
    t.fatal = s.fatal ∨ t = s.raise (.memReadOutOfRange addr n s.pc (some (firstWord i))) := by
  rcases withRead_cases h with hraise | ⟨bs, rfl⟩
  · exact .inr hraise
  · exact .inl (hk bs)

/-- R62: a checked store leaves `fatal`, as its completion does, or raises F1. -/
theorem withWrite_fatal_or_raise {i : Instr} {addr : Addr} {bs : List Byte} {k : State → State}
    (h : withWrite i addr bs s k = .next t) (hk : ∀ u, (k u).fatal = u.fatal) :
    t.fatal = s.fatal ∨ t = s.raise (.memoryOverflow addr bs.length s.pc (some (firstWord i))) := by
  rcases withWrite_cases h with hraise | ⟨m, -, rfl⟩
  · exact .inr hraise
  · exact .inl (hk _)

/-- R198, R199: a draw leaves `fatal`, whether it waits or draws, or raises F2. -/
theorem drawInstr_fatal_or_raise {i : Instr} {n : Nat} {pixelsOf : List Byte → List (Nat × Nat)}
    (h : drawInstr i n pixelsOf s = .next t) :
    t.fatal = s.fatal ∨ t = s.raise (.memReadOutOfRange s.i (drawBytes s.pmask n) s.pc (some (firstWord i))) := by
  rcases drawInstr_cases h with ⟨-, rfl⟩ | hraise | ⟨-, hit, p0, p1, rfl⟩
  · exact .inl rfl
  · exact .inr hraise
  · exact .inl rfl

/-- R243, R244: an instruction leaves `fatal` or raises an error it lists, by the instruction. The ones not named here
write no `fatal` (`eachPartHasItsOwnWriters`). -/
theorem exec_fatal_or_raises {i : Instr} (h : exec i s = .next t) :
    t.fatal = s.fatal ∨ ∃ e, Raises s i e ∧ t = s.raise e := by
  obtain ⟨-, -, -, -, -, -, -, -, -, -, -, -, -, -, -, -, -, -, unwritten, -⟩ := eachPartHasItsOwnWriters i s t h
  cases i with
  | call nnn =>
    rcases exec_call_cases h with ⟨-, rfl⟩ | ⟨st, -, rfl⟩
    · exact .inr ⟨_, .call nnn, rfl⟩
    · exact .inl rfl
  | ret =>
    rcases exec_ret_cases h with ⟨-, rfl⟩ | ⟨a, st, -, rfl⟩
    · exact .inr ⟨_, .ret, rfl⟩
    · exact .inl rfl
  | plane n =>
    rcases exec_plane_cases h with ⟨-, rfl⟩ | ⟨-, rfl⟩
    · exact .inr ⟨_, .plane n, rfl⟩
    · exact .inl rfl
  | skp x =>
    rcases exec_skp_cases h with ⟨-, rfl⟩ | ⟨k, -, rfl⟩
    · exact .inr ⟨_, .skp x, rfl⟩
    · exact .inl rfl
  | sknp x =>
    rcases exec_sknp_cases h with ⟨-, rfl⟩ | ⟨k, -, rfl⟩
    · exact .inr ⟨_, .sknp x, rfl⟩
    · exact .inl rfl
  | drw x y n => exact (drawInstr_fatal_or_raise h).imp_right fun ht => ⟨_, .drw x y n, ht⟩
  | drw16 x y => exact (drawInstr_fatal_or_raise h).imp_right fun ht => ⟨_, .drw16 x y, ht⟩
  | ldVMem x => exact (withRead_fatal_or_raise h fun _ => by simp).imp_right fun ht => ⟨_, .ldVMem x, ht⟩
  | load x y => exact (withRead_fatal_or_raise h fun _ => by simp).imp_right fun ht => ⟨_, .load x y, ht⟩
  | audio => exact (withRead_fatal_or_raise h fun _ => by simp).imp_right fun ht => ⟨_, .audio, ht⟩
  | bcd x => exact (withWrite_fatal_or_raise h fun _ => rfl).imp_right fun ht => ⟨_, .bcd x, ht⟩
  | ldMemV x =>
    simp only [exec, execLdMemV] at h
    exact (withWrite_fatal_or_raise h fun _ => by simp).imp_right fun ht => ⟨_, .ldMemV x, ht⟩
  | save x y => exact (withWrite_fatal_or_raise h fun _ => rfl).imp_right fun ht => ⟨_, .save x y, ht⟩
  | _ => exact .inl unwritten

end

/-- Settles O9: in an open batch, and when the host calls `step()` between two. -/
theorem noStepAfterAFatalError : Obligations.NoStepAfterAFatalError := by
  rintro s e hf (hb | ⟨rest, hcall⟩)
  · exact step_of_openBatch_of_fatal hb hf
  · rw [step_of_call hcall]
    exact callStep_of_fatal (s := { s with inputs := rest }) hf

/-- Settles O22: an instruction that has set `fatal` has raised an error it lists. -/
theorem fatalErrorsAreListedAndPrecise : Obligations.FatalErrorsAreListedAndPrecise := by
  intro i s t e hf h he
  rcases exec_fatal_or_raises h with hkeeps | ⟨e', raises, rfl⟩
  · cases hf.symm.trans (hkeeps.symm.trans he)
  · cases he
    exact ⟨rfl, by cases raises <;> trivial⟩

/-! ### Timers and keypad (R252 to R254, R278) -/

section
variable {s : State}

/-- R252: a timer's value after a decrement with floor 0, as a number. -/
theorem toNat_decrement_floor (b : Byte) : (if b = 0#8 then b else b - 1#8).toNat = b.toNat - 1 := by
  split <;> bv_omega

/-- R254: the ticks of `step_timers()` keep a latched release exactly while it is at most two ticks old. -/
theorem stepTimers_latch_eq_some {l : Latch} :
    (hostAct .stepTimers s).latch = some l ↔ s.latch = some l ∧ s.ktick + 1 - l.tick ≤ 2 := by
  rw [hostAct, keypadStep, Option.filter_eq_some_iff, decide_eq_true_iff]
  rfl

/-- R254: a release `n` ticks old, n below 2, is kept and grows a tick older. -/
theorem stepTimers_of_latched {l : Latch} {n : Nat} (hl : s.latch = some l) (hage : s.ktick = l.tick + n) (hn : n < 2) :
    (hostAct .stepTimers s).latch = some l ∧ (hostAct .stepTimers s).ktick = l.tick + (n + 1) :=
  ⟨stepTimers_latch_eq_some.2 ⟨hl, by omega⟩, congrArg Nat.succ hage⟩

/-- R254: a release two ticks old or older is dropped, and nothing else gets latched. -/
theorem stepTimers_of_expired {l : Latch} (hl : s.latch = some l) (hage : l.tick + 2 ≤ s.ktick) :
    (hostAct .stepTimers s).latch = none := by
  refine Option.eq_none_iff_forall_ne_some.2 fun l' hl' => ?_
  obtain ⟨hl', hyoung⟩ := stepTimers_latch_eq_some.1 hl'
  cases hl.symm.trans hl'
  omega

/-- R253, D29: an event of a key 0 to 15 sets it, and a release latches it. -/
theorem keyDown_of_le {k : Nat} (hk : k ≤ 15) (pressed : Bool) :
    keyDown k pressed s = { s with
      down := s.down.setIfInBounds k pressed
      latch := if pressed then s.latch else some ⟨BitVec.ofNat 4 k, s.ktick⟩ } :=
  if_neg (Nat.not_lt.2 hk)

/-- R253: an event of a key above 15 raises F6. -/
theorem keyDown_of_gt {k : Nat} (hk : 15 < k) (pressed : Bool) :
    keyDown k pressed s = s.raise (.invalidKeyIndex k s.pc) :=
  if_pos hk

end

/-- Settles O10: the action ticks the timers, then the keypad. -/
theorem timersTickDownToZero : Obligations.TimersTickDownToZero := by
  intro s rest hact
  exact ⟨_, step_of_act hact, toNat_decrement_floor s.dt, toNat_decrement_floor s.st,
    fun _ => stepTimers_latch_eq_some, rfl⟩

/-- Settles O11: the two ends of a key event; the key set is one element of the array of keys. -/
theorem keyEventsSetKeysAndLatchReleases : Obligations.KeyEventsSetKeysAndLatchReleases := by
  intro s rest k pressed hact
  refine ⟨fun hk => ⟨_, (step_of_act hact).trans (congrArg _ (keyDown_of_le hk pressed)), fun j hj => ?_, rfl⟩,
    fun hk => (step_of_act hact).trans (congrArg _ (keyDown_of_gt hk pressed))⟩
  simp only [Vector.getElem_setIfInBounds, eq_comm]

/-- Settles O12: the release is latched with the present tick, so the ticks that follow find it 0, 1 and 2 ticks old. -/
theorem releaseLastsTwoTicks : Obligations.ReleaseLastsTwoTicks := by
  intro s k hk released after1 after2 after3
  have hdown : released = _ := keyDown_of_le hk false
  have hlatch0 : released.latch = some ⟨BitVec.ofNat 4 k, s.ktick⟩ := by
    rw [hdown]
    rfl
  have hage0 : released.ktick = s.ktick + 0 := by rw [hdown, Nat.add_zero]
  obtain ⟨hlatch1, hage1⟩ := stepTimers_of_latched hlatch0 hage0 (by decide)
  obtain ⟨hlatch2, hage2⟩ := stepTimers_of_latched hlatch1 hage1 (by decide)
  exact ⟨hlatch0, hlatch1.trans hlatch0.symm, hlatch2.trans hlatch0.symm, stepTimers_of_expired hlatch2 hage2.ge⟩

/-! ### Reset by the host (R261, R270) -/

/-- R70, R270: memory after `reset()` is the two fonts in their places and 0 elsewhere. -/
theorem memGet_fontMemory (p : Params) (a : Nat) :
    memGet (fontMemory p) a =
      if h : 0x050 ≤ a ∧ a < 0x0A0 then p.smallFont[a - 0x050]
      else if h : 0x0A0 ≤ a ∧ a < 0x140 then p.bigFont[a - 0x0A0] else 0#8 := by
  have hempty : Memory.wf [] := ⟨.nil, nofun⟩
  have hsmall : 0x050 + p.smallFont.toList.length = 0x0A0 := by simp
  have hbig : 0x0A0 + p.bigFont.toList.length = 0x140 := by simp
  have hsize : Config.memSize = 4096 := rfl
  have hbase : Config.fontBase.toNat = 0x050 := rfl
  have hbigBase : Config.bigFontBase.toNat = 0x0A0 := rfl
  rw [fontMemory, hbase, hbigBase, memGet_memSetAll (memSetAll_wf hempty (by omega)) (by omega),
    memGet_memSetAll hempty (by omega), hsmall, hbig, memGet_nil]
  by_cases h1 : 0x050 ≤ a ∧ a < 0x0A0
  · rw [if_neg (by omega), if_pos h1, dif_pos h1, getD_toList]
  · rw [dif_neg h1, if_neg h1]
    by_cases h2 : 0x0A0 ≤ a ∧ a < 0x140
    · rw [if_pos h2, dif_pos h2, getD_toList]
    · rw [if_neg h2, dif_neg h2, resetByte_eq, dif_neg h1, dif_neg h2]

/-- Settles O13: the fields are the values `hostReset` writes out, and memory is `fontMemory`. -/
theorem hostResetRestoresResetValues : Obligations.HostResetRestoresResetValues := by
  intro s rest hact
  refine ⟨hostReset { s with inputs := rest }, step_of_act hact, fun k => Vector.getElem_replicate k.isLt,
    fun j hj => Vector.getElem_replicate hj, fun j hj => Vector.getElem_replicate hj,
    fun j hj => Vector.getElem_replicate hj, fun px py => ⟨pixel_clear px py, pixel_clear px py⟩,
    memGet_fontMemory s.params, fontMemory_wf s.params, rfl⟩

end Sys2Proof.Machine
end
